-- ==== Sys2Proof/Word.lean ====
section
/-! DEFINITION. The word types of the DMA-TC block (spec/00_scope.md R5, R7; spec/30_encoding.md R90, R98). -/

namespace Sys2Proof

/-- A byte of the address space, and a wire byte (R60, R120). -/
abbrev Byte := BitVec 8

/-- A byte address: AW = 32 (R5, R60). -/
abbrev Addr := BitVec 32

/-- The `ch` field of a command or label word (R90, R98). -/
abbrev ChIx := BitVec 8

/-- A command word of the command port, format CMD (R90). -/
abbrev CmdWord := BitVec 128

/-- The label word of a step that is not a host command, format EVT (R98). -/
abbrev LabelWord := BitVec 16

/-- The number of byte addresses, 2^32 (R60). -/
abbrev addrSpace : Nat := 4294967296

/-- `MAX_COUNT` = 2^CNTW − 1 with CNTW = 16 (R5). -/
abbrev maxCount : Nat := 65535

end Sys2Proof
end

