-- ==== Sys2Proof/Config.lean ====
section
/-! DEFINITION. What an instance of the block and its platform fix: the OPEN parameters of spec/00_scope.md R5 as plain
data, and the free values the spec leaves unspecified. A `Params` is a field of the machine's state that no step
changes (log entry 1), so a statement for every state is a statement for every instance. -/

namespace Sys2Proof

/-- A block of byte addresses: `size` bytes from `base`. -/
structure Region where
  base : Nat
  size : Nat
deriving DecidableEq, Repr

/-- The OPEN parameters of R5 but for `N_CH`, which is the number of channels the state holds. -/
structure Params where
  /-- `CH_K`, the channel the chunk FSM is bound to. -/
  chK : ChIx
  /-- `CAP`, the per-chunk cap; `1 ≤ CAP ≤ MAX_COUNT`. -/
  cap : BitVec 16
  /-- `LONG_HIGH`, the wire byte of a logical 1 (R121). -/
  longHigh : Byte
  /-- `SHORT_HIGH`, the wire byte of a logical 0 (R121). -/
  shortHigh : Byte
  /-- `RESET_BYTES`, the zero run of the pseudo-op `ledframe` (R5, R102); at least 64, no upper bound (log entry 26). -/
  resetBytes : Nat
  /-- The addresses that are not `Mapped` (R66); an address in none of these regions is mapped (log entry 14). -/
  holes : List Region
  /-- The mapped locations that consume a written value and do not store it (R65, D42; log entry 15). -/
  sinks : List Region
deriving DecidableEq, Repr

/-- The defaults of R5: `CH_K` = 0, `CAP` = 255, `RESET_BYTES` = 64; for the two wire bytes the values the spec's
examples use; every address mapped and storing, as in spec/95_test_vectors.md section 0 (log entry 1). -/
def Params.defaults : Params where
  chK := 0#8
  cap := 255#16
  longHigh := 0xF8#8
  shortHigh := 0xC0#8
  resetBytes := 64
  holes := []
  sinks := []

/-! The registers that an RST event leaves unspecified (R45, R280) hold free values: uninterpreted functions of the
number of RST events taken so far and the channel's index (log entry 4). -/

/-- The free value of `CFG[ch]` after the RST numbered `draw`. -/
opaque Config.freeCfg : (draw ch : Nat) → BitVec 6

/-- The free value of `SRC[ch]` after the RST numbered `draw`. -/
opaque Config.freeSrc : (draw ch : Nat) → Addr

/-- The free value of `DST[ch]` after the RST numbered `draw`. -/
opaque Config.freeDst : (draw ch : Nat) → Addr

/-- The free value of `CNT_RELOAD[ch]` after the RST numbered `draw`. -/
opaque Config.freeReload : (draw ch : Nat) → BitVec 16

/-- The free value of `CUR[ch]` after the RST numbered `draw`. -/
opaque Config.freeCur : (draw ch : Nat) → Addr

end Sys2Proof
end

