-- ==== Sys2Proof/Syntax.lean ====
section
/-! DEFINITION. The syntax: one constructor per row of spec/opcode_table.json (17 host commands, 6 event and step
labels; spec/30_encoding.md R91, R94, R98), operands with the exact widths of their fields. -/

namespace Sys2Proof

/-- The five descriptor fields of CFG (R21, R95). Illegal values are expressible: CFG answers them with E_FIELD. -/
structure CfgFields where
  /-- bit 5: 0 one-shot, 1 circular -/
  circ : Bool
  /-- bit 4: destination increment, 0 in every stored value -/
  incDst : Bool
  /-- bit 3: source increment, 1 in every stored value -/
  incSrc : Bool
  /-- bit 2: direction, 0 = memory-to-peripheral -/
  dir : Bool
  /-- bits 1..0: 0 = W8, 1 = W16, 2 and 3 illegal -/
  width : BitVec 2
deriving DecidableEq, Repr

/-- The operations of the block (R94). -/
inductive Instr where
  -- the DMA Transfer Controller's commands (spec/41_dma_commands.md)
  | cfg (ch : ChIx) (f : CfgFields)
  | arm (ch : ChIx) (src dst : Addr) (count : BitVec 32)
  | en (ch : ChIx)
  | dis (ch : ChIx)
  | runq (ch : ChIx)
  | cntq (ch : ChIx)
  | tcq (ch : ChIx)
  | clrtc (ch : ChIx)
  -- the chunk FSM's commands (spec/43_chunk_fsm.md)
  | ckstart (len off : BitVec 32)
  | ckcancel
  | ckstat
  -- the Bit Encoder's commands (spec/40_bit_encoder.md)
  | encq (value : Byte)
  | encst (addr : Addr) (value : Byte)
  | encpx (addr : Addr) (r g bl : Byte)
  | encrst (addr : Addr) (n : BitVec 32)
  | order
  | period (coreClock frequency sampleCount : BitVec 32)
  -- events and the chunk FSM's own steps (R98, R99)
  | req (ch : ChIx)
  | buserr
  | rst
  | service
  | reload
  | finish
deriving DecidableEq, Repr

/-- What travels on the two ports: a command word, or the label word of another agent's step (R100). -/
inductive PortWord where
  | cmd (w : CmdWord)
  | evt (w : LabelWord)
deriving DecidableEq, Repr

/-- Is the operation a host command (R10 agent 1), and not an event or an FSM step? -/
def Instr.isCommand : Instr → Bool
  | .cfg _ _ => true
  | .arm _ _ _ _ => true
  | .en _ => true
  | .dis _ => true
  | .runq _ => true
  | .cntq _ => true
  | .tcq _ => true
  | .clrtc _ => true
  | .ckstart _ _ => true
  | .ckcancel => true
  | .ckstat => true
  | .encq _ => true
  | .encst _ _ => true
  | .encpx _ _ _ _ => true
  | .encrst _ _ => true
  | .order => true
  | .period _ _ _ => true
  | .req _ => false
  | .buserr => false
  | .rst => false
  | .service => false
  | .reload => false
  | .finish => false

end Sys2Proof
end

