-- ==== Sys2Proof/Machine/State.lean ====
section
/-! DEFINITION. The state of the DMA-TC block (spec/10_state.md R20 to R40), of the platform around it that its steps
read and write (memory, the host's command in progress, the schedule of inputs), and the reasons a step stops. -/

namespace Sys2Proof.Machine

/-- One record of a channel's destination-write log `OUT[ch]`: `(addr, n, v)` (R40). -/
structure OutRec where
  addr : Addr
  size : Nat
  value : BitVec 16
deriving DecidableEq, Repr

/-- The ten registers of one channel (R20 to R30) and its output log (R40). -/
structure Channel where
  /-- `CFG[ch]` (R21) -/
  cfg : CfgFields
  /-- `CV[ch]`, configuration valid (R22) -/
  cv : Bool
  /-- `SRC[ch]` (R23) -/
  src : Addr
  /-- `DST[ch]` (R24) -/
  dst : Addr
  /-- `CNT_RELOAD[ch]` (R25) -/
  cntReload : BitVec 16
  /-- `CUR[ch]`, the source cursor (R26) -/
  cur : Addr
  /-- `CNT[ch]`, elements still to move (R27) -/
  cnt : BitVec 16
  /-- `AV[ch]`, addresses valid (R28) -/
  av : Bool
  /-- `EN[ch]`, the enable bit (R29) -/
  en : Bool
  /-- `TCF[ch]`, the completion flag (R30) -/
  tcf : Bool
  /-- `OUT[ch]`, oldest record first (R40) -/
  out : List OutRec
deriving DecidableEq, Repr

/-- The states of the chunk FSM, the values of `ST` (R34). -/
inductive ChunkState where
  | idle
  | active
  | reloadNext
  | done
deriving DecidableEq, Repr

/-- A pulse on one of the two pulse outputs (R6, R40). -/
inductive Pulse where
  | chunkContinue
  | chunkDone
deriving DecidableEq, Repr

/-- The response port: `rsp_status` and `rsp_data` (R92). -/
structure Response where
  status : BitVec 4
  data : BitVec 64
deriving DecidableEq, Repr

/-- A store command in progress (R131): the address of its next byte and the bytes still to write, which are `bytes`
followed by `zeros` bytes 0x00. -/
structure StoreJob where
  next : Addr
  bytes : List Byte
  zeros : Nat
deriving DecidableEq, Repr

/-- A plain load or store of the host's own (R10, R101); not a command of the block. -/
inductive HostAccess where
  | st8 (addr : Addr) (v : Byte)
  | st16 (addr : Addr) (v : BitVec 16)
  | ld8 (addr : Addr)
  | ld16 (addr : Addr)
deriving DecidableEq, Repr

/-- One entry of the schedule: whose step is next (R10, R11, R98, R295; log entries 5 and 6). -/
inductive Input where
  /-- The host issues this command word; it waits while the host's previous command is in progress (R12). -/
  | cmd (w : CmdWord)
  /-- The step this label word names is taken now, whatever the host is doing (R98, R131). -/
  | evt (w : LabelWord)
  /-- The host's own load or store; it waits like a command. -/
  | access (a : HostAccess)
  /-- The host agent writes one byte of its store command in progress (R131). -/
  | hostByte
  /-- Nothing later in the schedule happens until the host's command in progress has responded. -/
  | hostDone
deriving DecidableEq, Repr

/-- Memory: the bytes that differ from what an unlisted address reads as, at strictly rising addresses. -/
abbrev Memory := List Host.Cell

/-- The whole machine. -/
structure State where
  /-- The instance's parameters and platform (R5); no step changes them. -/
  par : Params
  /-- The `N_CH` channels, channel 0 first (R20). -/
  chans : List Channel
  /-- `ST` (R34) -/
  st : ChunkState
  /-- `REM` (R35) -/
  rem : BitVec 32
  /-- `CHUNK` (R36) -/
  chunk : BitVec 16
  /-- `DONE` (R37) -/
  done : Bool
  /-- `ERR` (R38) -/
  err : Bool
  /-- The `chunk_continue` and `chunk_done` pulses in the order they were raised (R40; log entry 18). -/
  pulses : List Pulse
  /-- The response port: the last command's response; `none` = no response pending (R45, R92; log entry 9). -/
  rsp : Option Response
  /-- The address space's contents; they belong to the platform (R44, R60). -/
  mem : Memory
  /-- The host's encoder store command in progress, if any (R131, R280). -/
  store : Option StoreJob
  /-- The inputs still to come, in order (R11, R295; log entry 5). -/
  sched : List Input
  /-- What the host's last load returned (R10; the model's own field, log entry 21). -/
  hostData : BitVec 16
  /-- How many RST events were taken: the argument of the free values of `Config` (log entry 4). -/
  resets : Nat
deriving DecidableEq, Repr

/-- Why the machine stops with a fault. The block itself never faults (R13, R255); only the host's own loads and stores
do, which are no commands of the block. -/
inductive Fault where
  /-- A host load or store touches an address that is not `Mapped`: by R66 that access is not enabled. Raised by the
  schedule entries `st8`, `st16`, `ld8`, `ld16`. Safe: the run stops. -/
  | hostUnmapped (addr : Addr)
  /-- A 2-byte host load or store at 0xFFFFFFFF passes the top of the address space, where `MemRead` and `MemWrite`
  are not defined (R66, R75). Raised by `st16`, `ld16`. Safe: the run stops. -/
  | hostPastTop (addr : Addr)
deriving DecidableEq, Repr

/-- Why the machine gives an input no meaning. -/
inductive Refusal where
  /-- An instruction whose arm of `exec` has no meaning yet. Safe. -/
  | notModelled (mnemonic : String)
  /-- The schedule holds a label word that names no step (R98). Raised by `step`. Safe. -/
  | noSuchStep (w : LabelWord)
  /-- REQ names a channel `≥ N_CH`: there is no such wire (R98). Raised by REQ. Safe. -/
  | noSuchWire (ch : ChIx)
  /-- The label of an FSM step stands in the schedule where that step is not enabled: the schedule is ill-formed
  (R295). Raised by SERVICE, RELOAD, FINISH. Safe. -/
  | stepNotEnabled (label : LabelWord)
deriving DecidableEq, Repr

/-- A channel right after reset: R45 gives `CV`, `CNT`, `AV`, `EN`, `TCF` and the log; the five other registers are
unspecified and hold 0 here (log entry 3). -/
def Channel.atReset : Channel where
  cfg := ⟨false, false, false, false, 0#2⟩
  cv := false
  src := 0#32
  dst := 0#32
  cntReload := 0#16
  cur := 0#32
  cnt := 0#16
  av := false
  en := false
  tcf := false
  out := []

/-- The machine right after reset (R45), for the default instance of R5 (`N_CH` = 1), with no input scheduled and
nothing listed in memory. -/
def State.reset : State where
  par := Params.defaults
  chans := [Channel.atReset]
  st := .idle
  rem := 0#32
  chunk := 0#16
  done := false
  err := false
  pulses := []
  rsp := none
  mem := []
  store := none
  sched := []
  hostData := 0#16
  resets := 0

end Sys2Proof.Machine
end

