-- ==== Sys2Proof/Machine/Memory.lean ====
section
/-! DEFINITION. Memory: the canonical list of bytes, the platform's map, and the primitives `MemRead` and `MemWrite`
of spec/20_memory.md R66. -/

namespace Sys2Proof.Machine

/-- What an unlisted address reads as: 0, the launch contents of spec/95_test_vectors.md section 0 (log entry 2). -/
def memDefault : Byte := 0#8

/-- The canonical form: addresses of the 2^32 space, strictly rising, no byte equal to the default. -/
abbrev Memory.wf (m : Memory) : Prop :=
  m.Pairwise (fun x y => x.1 < y.1) ∧ ∀ c ∈ m, c.1 < addrSpace ∧ c.2 ≠ memDefault

/-- The byte a canonical memory holds at `a`. -/
def Memory.read : Memory → Nat → Byte
  | [], _ => memDefault
  | (b, v) :: m, a => if a = b then v else if a < b then memDefault else Memory.read m a

/-- The memory with byte `v` at `a`, in canonical form. -/
def Memory.write : Memory → Nat → Byte → Memory
  | [], a, v => if v = memDefault then [] else [(a, v)]
  | (b, u) :: m, a, v =>
    if a = b then if v = memDefault then m else (a, v) :: m
    else if a < b then if v = memDefault then (b, u) :: m else (a, v) :: (b, u) :: m
    else (b, u) :: Memory.write m a v

/-- Is the address in one of the regions? -/
def inRegions (rs : List Region) (a : Nat) : Bool :=
  rs.any fun r => decide (r.base ≤ a) && decide (a < r.base + r.size)

/-- The platform predicate `Mapped` of R66; nothing at or above 2^32 exists (R60). -/
def mapped (p : Params) (a : Nat) : Bool := decide (a < addrSpace) && !inRegions p.holes a

/-- Are the `n` bytes at `a` all `Mapped`? Otherwise a step that touches them is not enabled (R66). -/
def accessible (p : Params) (a n : Nat) : Bool := (List.range n).all fun j => mapped p (a + j)

/-- Does the location keep a value written to it? "Whether the location also stores the value … is the platform's
affair" (R65, D42; log entry 15). -/
def keeps (p : Params) (a : Nat) : Bool := !inRegions p.sinks a

/-- The byte at an address. -/
def State.byte (s : State) (a : Nat) : Byte := Memory.read s.mem a

/-- One byte write, dropped by a location that does not store. -/
def State.writeByte (s : State) (a : Nat) (v : Byte) : State :=
  if keeps s.par a then { s with mem := Memory.write s.mem a v } else s

/-- `MemRead(a, n)` for n ∈ {1, 2}: bits 7..0 at `a`, bits 15..8 at `a + 1` (R61, R66). -/
def memRead (s : State) (a n : Nat) : BitVec 16 :=
  (if n = 2 then s.byte (a + 1) else 0#8) ++ s.byte a

/-- `MemWrite(a, n, v)` for n ∈ {1, 2}, little-endian (R61, R66). -/
def memWrite (s : State) (a n : Nat) (v : BitVec 16) : State :=
  let t := s.writeByte a (v.extractLsb' 0 8)
  if n = 2 then t.writeByte (a + 1) (v.extractLsb' 8 8) else t

end Sys2Proof.Machine
end

