-- ==== Sys2Proof/Machine/Ops.lean ====
section
/-! DEFINITION. The named operations every meaning is built from: channel registers, responses and rejections (the
block's exceptions, spec/60_exceptions.md R240 to R243), pulses, and the encoder's store sequence
(spec/40_bit_encoder.md R131). -/

namespace Sys2Proof.Machine

/-- The outcome of a step of this machine. -/
abbrev Result := Host.Outcome State Fault Refusal

/-! ### Channels -/

/-- `N_CH` (R5). -/
def State.nCh (s : State) : Nat := s.chans.length

/-- The registers of channel `ch`; those of a channel that does not exist are never used. -/
def State.chan (s : State) (ch : ChIx) : Channel := s.chans.getD ch.toNat Channel.atReset

/-- The state with the registers of channel `ch` replaced. -/
def State.setChan (s : State) (ch : ChIx) (c : Channel) : State :=
  { s with chans := s.chans.set ch.toNat c }

/-- Is `ch` the chunk FSM's channel CH_K? -/
def State.isK (s : State) (ch : ChIx) : Bool := ch == s.par.chK

/-! ### Responses and rejections -/

/-- The values of `rsp_status` (R241). -/
inductive Status where
  | ok | eOp | eChan | eBusy | eNoCfg | eField | eState | eCount | eAlign | eRange | eDiv
deriving DecidableEq, Repr

/-- The 4-bit code of a status (R241). -/
def statusCode : Status → BitVec 4
  | .ok => 0#4
  | .eOp => 1#4
  | .eChan => 2#4
  | .eBusy => 3#4
  | .eNoCfg => 4#4
  | .eField => 5#4
  | .eState => 6#4
  | .eCount => 7#4
  | .eAlign => 8#4
  | .eRange => 9#4
  | .eDiv => 10#4

/-- The state with a response on the response port. -/
def State.answer (s : State) (st : Status) (d : BitVec 64) : State :=
  { s with rsp := some ⟨statusCode st, d⟩ }

/-- `respond(d)`: the command ends accepted with result `d` (R8). -/
def respond (s : State) (d : BitVec 64) : Result := .next (s.answer .ok d)

/-- `raise Reject(code)`: taking the block's only kind of exception. Its whole effect is the response, with data 0;
nothing is saved, no mode changes, and the return from it is the host's next command (R8, R243, R249). -/
def reject (s : State) (code : Status) : Result := .next (s.answer code 0#64)

/-- The prologue of the eight DMA commands: E_CHAN unless the channel exists (R103 stage 2, R150). -/
def withChannel (s : State) (ch : ChIx) (body : Channel → Result) : Result :=
  if ch.toNat < s.nCh then body (s.chan ch) else reject s .eChan

/-! ### Pulses -/

/-- `pulse p` (R8). -/
def State.pulse (s : State) (p : Pulse) : State := { s with pulses := s.pulses ++ [p] }

/-! ### The encoder's store sequence (R131) -/

/-- How many bytes a store job still has to write. -/
def jobLength (j : StoreJob) : Nat := j.bytes.length + j.zeros

/-- The next byte of a store job and the job after it; none when every byte is written. -/
def takeByte (j : StoreJob) : Option (Byte × StoreJob) :=
  match j.bytes, j.zeros with
  | b :: bs, _ => some (b, { j with next := j.next + 1#32, bytes := bs })
  | [], z + 1 => some (0#8, { j with next := j.next + 1#32, zeros := z })
  | [], 0 => none

/-- The checks of a store command and the start of its byte writes: E_RANGE if the bytes would pass the top of the
address space; an empty sequence responds at once; otherwise the writes are the host's next steps, and there is no
response before the last of them (R75, R131; log entry 8). -/
def beginStore (s : State) (addr : Addr) (bytes : List Byte) (zeros : Nat) : Result :=
  let n := bytes.length + zeros
  if addrSpace < addr.toNat + n then reject s .eRange
  else if n = 0 then respond s 0#64
  else .next { s with store := some ⟨addr, bytes, zeros⟩, rsp := none }

/-- Is the host waiting for the response to its store command (R12)? -/
def State.hostBusy (s : State) : Bool := s.store.isSome

/-- The host agent's step inside a store command: one byte write, and the response with the last one. A byte at an
address that is not `Mapped` is not written and the command does not complete (R66, R131; log entry 12). -/
def hostByteStep (s : State) : Result :=
  match s.store with
  | none => .next s
  | some j =>
    match takeByte j with
    | none => respond { s with store := none } 0#64
    | some (b, j') =>
      if accessible s.par j.next.toNat 1 then
        let t := s.writeByte j.next.toNat b
        if jobLength j' = 0 then respond { t with store := none } 0#64
        else .next { t with store := some j' }
      else .next s

end Sys2Proof.Machine
end

