-- ==== Sys2Proof/Machine/Operands.lean ====
section
/-! DEFINITION. Operand forms: the configuration fields and the element size they give, ARM's operand checks, the
chunk length, and the response layouts (spec/10_state.md R21, R32; spec/41_dma_commands.md R151, R152;
spec/43_chunk_fsm.md R202, R210). -/

namespace Sys2Proof.Machine

/-- `w(ch)`: 1 for W8, 2 for W16 (R8). Widths 2 and 3 are never stored under `CV = 1`; they count as 2 here (log
entry 16). -/
def elemSize (f : CfgFields) : Nat := if f.width = 0#2 then 1 else 2

/-- The field values CFG accepts (R21, R95). -/
def cfgLegal (f : CfgFields) : Bool :=
  decide (f.width.toNat < 2) && !f.dir && f.incSrc && !f.incDst

/-- W8 one-shot, what a chunked transfer needs (R202, R214). -/
def cfgChunkable (f : CfgFields) : Bool := f.width == 0#2 && !f.circ

/-- `running(ch)` (R32). -/
def running (c : Channel) : Bool := c.en && c.cnt != 0#16

/-- `armed(ch)` (R32). -/
def armed (c : Channel) : Bool := c.av && c.cnt != 0#16

/-- `stopped(ch)` (R32). -/
def stopped (c : Channel) : Bool := c.en && c.cnt == 0#16

/-- `configured(ch)` (R32). -/
def configured (c : Channel) : Bool := c.cv

/-- `idle(ch)` (R32). -/
def channelIdle (c : Channel) : Bool := !c.en

/-- ARM's count check (R152): the 32-bit operand as it stands. -/
def countLegal (count : BitVec 32) : Bool := decide (1 ≤ count.toNat) && decide (count.toNat ≤ maxCount)

/-- ARM's alignment check (R62, R152). -/
def addrsAligned (w : Nat) (src dst : Addr) : Bool :=
  decide (src.toNat % w = 0) && decide (dst.toNat % w = 0)

/-- `min(r, CAP)` (R202, R205). -/
def chunkLength (p : Params) (r : BitVec 32) : BitVec 16 :=
  if r.toNat ≤ p.cap.toNat then r.setWidth 16 else p.cap

/-- The 2-bit code of `ST` (R34). -/
def chunkStateCode : ChunkState → BitVec 2
  | .idle => 0#2
  | .active => 1#2
  | .reloadNext => 2#2
  | .done => 3#2

/-- A one-bit answer in bit 0 of `rsp_data` (R155, R157). -/
def bitAnswer (b : Bool) : BitVec 64 := (BitVec.ofBool b).setWidth 64

/-- CKSTAT's answer: REM in 31..0, ST in 33..32, DONE in 34, ERR in 35, CHUNK in 51..36 (R210). -/
def chunkStatus (s : State) : BitVec 64 :=
  0#12 ++ s.chunk ++ BitVec.ofBool s.err ++ BitVec.ofBool s.done ++ chunkStateCode s.st ++ s.rem

/-- The 68-bit response word (R92). DESIGN CHOICE (log entry 28): the status stands above the data; R92 gives the two
fields and their widths, and no bit positions. -/
def responseWord (r : Response) : BitVec 68 := r.status ++ r.data

end Sys2Proof.Machine
end

