-- ==== Sys2Proof/Machine/Flags.lean ====
section
/-! DEFINITION. The flags TCF, DONE and ERR and the output lines they drive (spec/10_state.md R30, R37, R38;
spec/60_exceptions.md R244, R245). -/

namespace Sys2Proof.Machine

/-- The completion signal: `TCF[ch] <- 1` (R182). -/
def raiseTcf (c : Channel) : Channel := { c with tcf := true }

/-- `TCF[ch] <- 0` (R158, R204). -/
def clearTcf (c : Channel) : Channel := { c with tcf := false }

/-- An accepted CKSTART clears DONE and ERR (R202). -/
def State.clearChunkFlags (s : State) : State := { s with done := false, err := false }

/-- FINISH sets DONE (R206). -/
def State.raiseDone (s : State) : State := { s with done := true }

/-- BUSERR in Active or ReloadNext sets ERR (R207). -/
def State.raiseErr (s : State) : State := { s with err := true }

/-- The level line `irq_tc[ch]` (R244). -/
def irqTc (s : State) (ch : ChIx) : Bool := (s.chan ch).tcf

/-- The level line `irq_chunk_done` (R244). -/
def irqChunkDone (s : State) : Bool := s.done

/-- The number of `chunk_continue` pulses so far: the "reload events" of R40. -/
def continuePulses (s : State) : Nat := s.pulses.count .chunkContinue

/-- The number of `chunk_done` pulses so far (R40). -/
def donePulses (s : State) : Nat := s.pulses.count .chunkDone

end Sys2Proof.Machine
end

