-- ==== Sys2Proof/Machine/ChunkFsm.lean ====
section
/-! DEFINITION. The Chunked Transfer State Machine: CKSTART, CKCANCEL, CKSTAT, the steps SERVICE, RELOAD, FINISH and
the event BUSERR (spec/43_chunk_fsm.md R200 to R210). `k` is CH_K throughout. -/

namespace Sys2Proof.Machine

/-- The registers of channel CH_K. -/
def State.kChan (s : State) : Channel := s.chan s.par.chK

/-- The state with the registers of channel CH_K replaced. -/
def State.setK (s : State) (c : Channel) : State := s.setChan s.par.chK c

/-- CKSTART (R202). -/
def execCkstart (len off : BitVec 32) (s : State) : Result :=
  let c := s.kChan
  let n := chunkLength s.par len
  if s.st != .idle || c.en then reject s .eBusy
  else if !c.cv || !c.av then reject s .eNoCfg
  else if !cfgChunkable c.cfg then reject s .eField
  else if c.tcf then reject s .eState
  else if len = 0#32 then reject s .eCount
  else if addrSpace < c.src.toNat + off.toNat + len.toNat then reject s .eRange
  else
    let t := (s.setK { c with cur := c.src + off, cnt := n, en := true }).clearChunkFlags
    respond { t with rem := len, chunk := n, st := .active } 0#64

/-- CKCANCEL (R209). -/
def execCkcancel (s : State) : Result :=
  let t := if s.st != .idle then s.setK { s.kChan with en := false } else s
  respond { t with st := .idle, rem := 0#32, chunk := 0#16 } 0#64

/-- CKSTAT (R210). -/
def execCkstat (s : State) : Result := respond s (chunkStatus s)

/-- SERVICE is enabled (R204). -/
def serviceEnabled (s : State) : Bool := s.st == .active && s.kChan.tcf

/-- SERVICE: clear the flag, subtract the completed chunk, then test what remains (R204). -/
def execService (s : State) : Result :=
  if serviceEnabled s then
    let left := s.rem - s.chunk.setWidth 32
    .next { s.setK (clearTcf s.kChan) with
      rem := left, st := if left = 0#32 then .done else .reloadNext }
  else .refused (.stepNotEnabled 0x9000#16)

/-- RELOAD: the reload write to the length register (R205). -/
def execReload (s : State) : Result :=
  if s.st = .reloadNext then
    let n := chunkLength s.par s.rem
    .next { (s.setK { s.kChan with cnt := n }).pulse .chunkContinue with chunk := n, st := .active }
  else .refused (.stepNotEnabled 0x9100#16)

/-- FINISH: signal completion upward and return to Idle (R206). -/
def execFinish (s : State) : Result :=
  if s.st = .done then
    .next { ((s.setK { s.kChan with en := false }).raiseDone).pulse .chunkDone with chunk := 0#16, st := .idle }
  else .refused (.stepNotEnabled 0x9200#16)

/-- BUSERR: the frame is lost in Active and ReloadNext; no effect in Idle and Done (R207). -/
def execBuserr (s : State) : Result :=
  if s.st = .active ∨ s.st = .reloadNext then
    .next { (s.setK { s.kChan with en := false }).raiseErr with rem := 0#32, chunk := 0#16, st := .idle }
  else .next s

end Sys2Proof.Machine
end

