-- ==== Sys2Proof/Machine/DmaCommands.lean ====
section
/-! DEFINITION. The DMA Transfer Controller's commands CFG, ARM, EN, DIS, RUNQ, CNTQ, TCQ and CLRTC
(spec/41_dma_commands.md R150 to R158). Checks come first, in ascending order of status code; then every register is
written in the same step (R103, R161, R242). -/

namespace Sys2Proof.Machine

/-- The registers after an accepted CFG: a change of width invalidates the arming (R151). -/
def configure (c : Channel) (f : CfgFields) : Channel :=
  if c.av && f.width != c.cfg.width then { c with cfg := f, cv := true, av := false, cnt := 0#16 }
  else { c with cfg := f, cv := true }

/-- CFG (R151). -/
def execCfg (ch : ChIx) (f : CfgFields) (s : State) : Result :=
  withChannel s ch fun c =>
    if c.en then reject s .eBusy
    else if !cfgLegal f then reject s .eField
    else respond (s.setChan ch (configure c f)) 0#64

/-- The registers after an accepted ARM (R152). -/
def loadDescriptor (c : Channel) (src dst : Addr) (count : BitVec 32) : Channel :=
  { c with src := src, dst := dst, cntReload := count.setWidth 16, cur := src, cnt := count.setWidth 16, av := true }

/-- ARM (R152). -/
def execArm (ch : ChIx) (src dst : Addr) (count : BitVec 32) (s : State) : Result :=
  withChannel s ch fun c =>
    if c.en then reject s .eBusy
    else if !c.cv then reject s .eNoCfg
    else if !countLegal count then reject s .eCount
    else if !addrsAligned (elemSize c.cfg) src dst then reject s .eAlign
    else if addrSpace < src.toNat + count.toNat * elemSize c.cfg then reject s .eRange
    else respond (s.setChan ch (loadDescriptor c src dst count)) 0#64

/-- EN (R153). -/
def execEn (ch : ChIx) (s : State) : Result :=
  withChannel s ch fun c => respond (s.setChan ch { c with en := true }) 0#64

/-- The effect of DIS on the chunk FSM's channel while the FSM is not Idle: `ST <- Idle`, and nothing else (R208). -/
def State.forceIdle (s : State) (ch : ChIx) : State :=
  if s.isK ch && s.st != .idle then { s with st := .idle } else s

/-- DIS (R154, R208). -/
def execDis (ch : ChIx) (s : State) : Result :=
  withChannel s ch fun c => respond ((s.setChan ch { c with en := false }).forceIdle ch) 0#64

/-- RUNQ (R155). -/
def execRunq (ch : ChIx) (s : State) : Result :=
  withChannel s ch fun c => respond s (bitAnswer (running c))

/-- CNTQ (R156). -/
def execCntq (ch : ChIx) (s : State) : Result :=
  withChannel s ch fun c => respond s (c.cnt.setWidth 64)

/-- TCQ (R157). -/
def execTcq (ch : ChIx) (s : State) : Result :=
  withChannel s ch fun c => respond s (bitAnswer c.tcf)

/-- CLRTC (R158): on CH_K only while the chunk FSM is Idle. -/
def execClrtc (ch : ChIx) (s : State) : Result :=
  withChannel s ch fun c =>
    if s.isK ch && s.st != .idle then reject s .eBusy
    else respond (s.setChan ch (clearTcf c)) 0#64

end Sys2Proof.Machine
end

