-- ==== Sys2Proof/Machine/Encoder.lean ====
section
/-! DEFINITION. The Bit Encoder: its functions (spec/40_bit_encoder.md R120 to R128) and the meanings of ENCQ, ENCST,
ENCPX, ENCRST, ORDER and PERIOD (R130 to R136). -/

namespace Sys2Proof.Machine

/-! ### Functions -/

/-- `LedEnc(value)`: bit 7 first (R120). -/
def ledEnc (p : Params) (value : Byte) : List Byte :=
  (List.range 8).map fun i => if value.getLsbD (7 - i) then p.longHigh else p.shortHigh

/-- The three colour channels (R122, R135). -/
inductive Colour where
  | red | green | blue
deriving DecidableEq, Repr

/-- `ChannelOrder()` = G, R, B (R122). -/
def channelOrder : List Colour := [.green, .red, .blue]

/-- The code of a colour in ORDER's answer (R135). -/
def colourCode : Colour → BitVec 2
  | .red => 0#2
  | .green => 1#2
  | .blue => 2#2

/-- The value of one colour of a pixel. -/
def colourValue (r g bl : Byte) : Colour → Byte
  | .red => r
  | .green => g
  | .blue => bl

/-- `LedPixel(r, g, bl)`: the three channels in the emission order (R123). -/
def ledPixel (p : Params) (r g bl : Byte) : List Byte :=
  channelOrder.flatMap fun c => ledEnc p (colourValue r g bl c)

/-- `ResetPulse(n)` (R124). -/
def resetPulse (n : Nat) : List Byte := List.replicate n 0#8

/-- `LedFrame(colors, z)` (R125); a triple is `(r, g, bl)`. -/
def ledFrame (p : Params) (colors : List (Byte × Byte × Byte)) (z : Nat) : List Byte :=
  (colors.flatMap fun c => ledPixel p c.1 c.2.1 c.2.2) ++ resetPulse z

/-- The bit a canonical wire byte stands for; no value for any other byte (R126). -/
def ledDecBit (p : Params) (b : Byte) : Option Bool :=
  if b = p.longHigh then some true else if b = p.shortHigh then some false else none

/-- The byte with the given bits, the first of them bit 7 (R126). -/
def byteOfBits (bits : List Bool) : Byte :=
  bits.foldl (fun v b => (v <<< (1 : Nat)) ||| (BitVec.ofBool b).setWidth 8) 0#8

/-- `LedDec(bytes)`, on 8 canonical bytes; no value otherwise (R126). -/
def ledDec (p : Params) (bytes : List Byte) : Option Byte :=
  if bytes.length = 8 then (bytes.mapM (ledDecBit p)).map byteOfBits else none

/-- `TimerPeriod`: the product exactly, then one truncating division (R128). -/
def timerPeriod (coreClock frequency sampleCount : Nat) : Nat := coreClock / (frequency * sampleCount)

/-- Eight bytes in the lanes of a 64-bit word, byte `i` in bits 8i+7..8i (R61, R130). -/
def byteLanes (bytes : List Byte) : BitVec 64 :=
  bytes.foldr (fun b acc => (acc <<< (8 : Nat)) ||| b.setWidth 64) 0#64

/-! ### Commands -/

/-- ENCQ (R130). -/
def execEncq (value : Byte) (s : State) : Result := respond s (byteLanes (ledEnc s.par value))

/-- ENCST (R132). -/
def execEncst (addr : Addr) (value : Byte) (s : State) : Result :=
  beginStore s addr (ledEnc s.par value) 0

/-- ENCPX (R133): operands r, g, bl; bytes g, r, bl. -/
def execEncpx (addr : Addr) (r g bl : Byte) (s : State) : Result :=
  beginStore s addr (ledPixel s.par r g bl) 0

/-- ENCRST (R134): the `n` bytes of `ResetPulse(n)`. -/
def execEncrst (addr : Addr) (n : BitVec 32) (s : State) : Result :=
  beginStore s addr [] n.toNat

/-- ORDER (R135): the first emitted channel in bits 1..0. -/
def execOrder (s : State) : Result :=
  respond s (channelOrder.foldr (fun c acc => (acc <<< (2 : Nat)) ||| (colourCode c).setWidth 64) 0#64)

/-- PERIOD (R136). -/
def execPeriod (coreClock frequency sampleCount : BitVec 32) (s : State) : Result :=
  if frequency.toNat * sampleCount.toNat = 0 then reject s .eDiv
  else respond s (BitVec.ofNat 64 (timerPeriod coreClock.toNat frequency.toNat sampleCount.toNat))

end Sys2Proof.Machine
end

