-- ==== Sys2Proof/WellFormed.lean ====
section
/-! DEFINITION. The checks on an instance's parameters (spec/00_scope.md R5, spec/40_bit_encoder.md R121) and on an
instruction of that instance (spec/30_encoding.md R98). -/

namespace Sys2Proof

/-- The byte of `k` one bits from bit 7 downward followed by `8 − k` zero bits (R121 (b)). -/
def highRun (k : Nat) : Byte := BitVec.ofNat 8 (256 - 2 ^ (8 - k))

/-- R121 (b): `LONG_HIGH` is a run of `a` ones and `SHORT_HIGH` one of `s`, with `1 ≤ s < a ≤ 7`. -/
def wireShape (long short : Byte) : Bool :=
  (List.range 8).any fun a =>
    (List.range a).any fun s => decide (1 ≤ s) && long == highRun a && short == highRun s

/-- The ranges of R5 for an instance with `nCh` channels; RESET_BYTES has no upper bound there (log entry 26). -/
def Params.wellFormed (p : Params) (nCh : Nat) : Bool :=
  decide (1 ≤ nCh) && decide (nCh ≤ 256) && decide (p.chK.toNat < nCh) && decide (1 ≤ p.cap.toNat)
    && wireShape p.longHigh p.shortHigh && decide (64 ≤ p.resetBytes)

/-- R98: a REQ label names a wire that exists. A command with a channel that does not exist is a legal word, which
the block answers with E_CHAN. Operand widths are carried by the types. -/
def Instr.wellFormed (nCh : Nat) : Instr → Bool
  | .cfg _ _ => true
  | .arm _ _ _ _ => true
  | .en _ => true
  | .dis _ => true
  | .runq _ => true
  | .cntq _ => true
  | .tcq _ => true
  | .clrtc _ => true
  | .ckstart _ _ => true
  | .ckcancel => true
  | .ckstat => true
  | .encq _ => true
  | .encst _ _ => true
  | .encpx _ _ _ _ => true
  | .encrst _ _ => true
  | .order => true
  | .period _ _ _ => true
  | .req ch => decide (ch.toNat < nCh)
  | .buserr => true
  | .rst => true
  | .service => true
  | .reload => true
  | .finish => true

end Sys2Proof
end

