-- ==== Sys2Proof/Decode.lean ====
section
/-! DEFINITION. The decoder of command and label words, total on every word and rejecting by name, and after it the
encoder and the masks of spec/opcode_table.json, all written from spec/30_encoding.md R90, R91, R95, R98. -/

namespace Sys2Proof

/-- Why a word selects no operation. -/
inductive DecodeErr where
  /-- `op` is none of the seventeen values of R91 (R97); the block answers E_OP. -/
  | unknownOp (op : Byte)
  /-- A bit of a field that R91 marks reserved for `op` is 1 (R96); the block answers E_OP. -/
  | reservedSet (op : Byte)
  /-- The label word names no step (R98): there is no such wire. -/
  | noSuchStep (w : LabelWord)
deriving DecidableEq, Repr

/-! ### The six fields of a command word (R90) -/

/-- `op`, bits 127..120. -/
def opField (w : CmdWord) : Byte := w.extractLsb' 120 8
/-- `ch`, bits 119..112. -/
def chField (w : CmdWord) : ChIx := w.extractLsb' 112 8
/-- `aux`, bits 111..96. -/
def auxField (w : CmdWord) : BitVec 16 := w.extractLsb' 96 16
/-- `a`, bits 95..64. -/
def aField (w : CmdWord) : BitVec 32 := w.extractLsb' 64 32
/-- `b`, bits 63..32. -/
def bField (w : CmdWord) : BitVec 32 := w.extractLsb' 32 32
/-- `c`, bits 31..0. -/
def cField (w : CmdWord) : BitVec 32 := w.extractLsb' 0 32

/-- The command word with the given fields (R90). -/
def packCmd (op : Byte) (ch : ChIx) (aux : BitVec 16) (a b c : BitVec 32) : CmdWord :=
  op ++ ch ++ aux ++ a ++ b ++ c

/-- The five CFG fields at their bits of the 6-bit value (R21, R95). -/
def cfgOfBits (v : BitVec 6) : CfgFields where
  circ := v.getLsbD 5
  incDst := v.getLsbD 4
  incSrc := v.getLsbD 3
  dir := v.getLsbD 2
  width := v.extractLsb' 0 2

/-- The 6-bit value of the five CFG fields (R21, R95). -/
def cfgToBits (f : CfgFields) : BitVec 6 :=
  BitVec.ofBool f.circ ++ BitVec.ofBool f.incDst ++ BitVec.ofBool f.incSrc ++ BitVec.ofBool f.dir ++ f.width

/-! ### The decoder -/

/-- An operation whose reserved bits must be clear (R96). -/
def whenClear (op : Byte) (clear : Bool) (i : Instr) : Except DecodeErr Instr :=
  if clear then .ok i else .error (.reservedSet op)

/-- R91 on a word's six fields: the operation `op` selects, if the fields it does not use are 0. -/
def decodeFields (op : Byte) (ch : ChIx) (aux : BitVec 16) (a b c : BitVec 32) : Except DecodeErr Instr :=
  let noCh := ch == 0#8
  let noAux := aux == 0#16
  let noA := a == 0#32
  let noB := b == 0#32
  let noC := c == 0#32
  let auxHigh := aux.extractLsb' 8 8 == 0#8
  let onlyCh := noAux && noA && noB && noC
  match op.toNat with
  | 0x01 => whenClear op (aux.extractLsb' 6 10 == 0#10 && noA && noB && noC)
              (.cfg ch (cfgOfBits (aux.extractLsb' 0 6)))
  | 0x02 => whenClear op noAux (.arm ch a b c)
  | 0x03 => whenClear op onlyCh (.en ch)
  | 0x04 => whenClear op onlyCh (.dis ch)
  | 0x05 => whenClear op onlyCh (.runq ch)
  | 0x06 => whenClear op onlyCh (.cntq ch)
  | 0x07 => whenClear op onlyCh (.tcq ch)
  | 0x08 => whenClear op onlyCh (.clrtc ch)
  | 0x10 => whenClear op (noCh && noAux && noC) (.ckstart a b)
  | 0x11 => whenClear op (noCh && onlyCh) .ckcancel
  | 0x12 => whenClear op (noCh && onlyCh) .ckstat
  | 0x20 => whenClear op (noCh && auxHigh && noA && noB && noC) (.encq (aux.extractLsb' 0 8))
  | 0x21 => whenClear op (noCh && auxHigh && noB && noC) (.encst a (aux.extractLsb' 0 8))
  | 0x22 => whenClear op (noCh && noAux && b.extractLsb' 24 8 == 0#8 && noC)
              (.encpx a (b.extractLsb' 16 8) (b.extractLsb' 8 8) (b.extractLsb' 0 8))
  | 0x23 => whenClear op (noCh && noAux && noB) (.encrst a c)
  | 0x24 => whenClear op (noCh && onlyCh) .order
  | 0x25 => whenClear op (noCh && noAux) (.period a b c)
  | _ => .error (.unknownOp op)

/-- The command a word of the command port selects (R96, R97, R103 stage 1). -/
def decodeCmd (w : CmdWord) : Except DecodeErr Instr :=
  decodeFields (opField w) (chField w) (auxField w) (aField w) (bField w) (cField w)

/-- A label whose `ch` field must be 0 (R98). -/
def whenNoCh (w : LabelWord) (i : Instr) : Except DecodeErr Instr :=
  if w.extractLsb' 0 8 == 0#8 then .ok i else .error (.noSuchStep w)

/-- The step a label word names (R98). Whether `req[ch]` exists depends on the instance: `Instr.wellFormed`. -/
def decodeLabel (w : LabelWord) : Except DecodeErr Instr :=
  match (w.extractLsb' 8 8).toNat with
  | 0x80 => .ok (.req (w.extractLsb' 0 8))
  | 0x81 => whenNoCh w .buserr
  | 0x82 => whenNoCh w .rst
  | 0x90 => whenNoCh w .service
  | 0x91 => whenNoCh w .reload
  | 0x92 => whenNoCh w .finish
  | _ => .error (.noSuchStep w)

/-- The operation a word of either port selects (R100). -/
def decode : PortWord → Except DecodeErr Instr
  | .cmd w => decodeCmd w
  | .evt w => decodeLabel w

/-- The instruction the decoder reads from a row's word `w` of `nbits` bits: a label is one 16-bit word, a command one
128-bit word, and a word of another length has zeros above `nbits` (log entry 24). -/
def decodeTableWord (nbits w : Nat) : Option Instr :=
  if nbits ≤ 16 then
    if w < 2 ^ 16 then (decodeLabel (BitVec.ofNat 16 w)).toOption else none
  else if w < 2 ^ 128 then (decodeCmd (BitVec.ofNat 128 w)).toOption
  else none

/-! ### The encoder -/

/-- The label word `{kind, ch}` (R98). -/
def packLabel (kind : Byte) (ch : ChIx) : LabelWord := kind ++ ch

/-- The word of an operation on its port (R91, R95, R98). -/
def encode : Instr → PortWord
  | .cfg ch f => .cmd (packCmd 0x01#8 ch ((0#10 ++ cfgToBits f : BitVec 16)) 0 0 0)
  | .arm ch src dst count => .cmd (packCmd 0x02#8 ch 0 src dst count)
  | .en ch => .cmd (packCmd 0x03#8 ch 0 0 0 0)
  | .dis ch => .cmd (packCmd 0x04#8 ch 0 0 0 0)
  | .runq ch => .cmd (packCmd 0x05#8 ch 0 0 0 0)
  | .cntq ch => .cmd (packCmd 0x06#8 ch 0 0 0 0)
  | .tcq ch => .cmd (packCmd 0x07#8 ch 0 0 0 0)
  | .clrtc ch => .cmd (packCmd 0x08#8 ch 0 0 0 0)
  | .ckstart len off => .cmd (packCmd 0x10#8 0 0 len off 0)
  | .ckcancel => .cmd (packCmd 0x11#8 0 0 0 0 0)
  | .ckstat => .cmd (packCmd 0x12#8 0 0 0 0 0)
  | .encq value => .cmd (packCmd 0x20#8 0 ((0#8 ++ value : BitVec 16)) 0 0 0)
  | .encst addr value => .cmd (packCmd 0x21#8 0 ((0#8 ++ value : BitVec 16)) addr 0 0)
  | .encpx addr r g bl => .cmd (packCmd 0x22#8 0 0 addr ((0#8 ++ r ++ g ++ bl : BitVec 32)) 0)
  | .encrst addr n => .cmd (packCmd 0x23#8 0 0 addr 0 n)
  | .order => .cmd (packCmd 0x24#8 0 0 0 0 0)
  | .period clock freq count => .cmd (packCmd 0x25#8 0 0 clock freq count)
  | .req ch => .evt (packLabel 0x80#8 ch)
  | .buserr => .evt (packLabel 0x81#8 0)
  | .rst => .evt (packLabel 0x82#8 0)
  | .service => .evt (packLabel 0x90#8 0)
  | .reload => .evt (packLabel 0x91#8 0)
  | .finish => .evt (packLabel 0x92#8 0)

/-! ### The rows of spec/opcode_table.json (R96) -/

/-- A row's `match` and `mask`: the word is the row's when the masked bits are the match. -/
structure TableRow (n : Nat) where
  mnemonic : String
  pattern : BitVec n
  mask : BitVec n
deriving DecidableEq, Repr

/-- The seventeen command rows. -/
def commandRows : List (TableRow 128) :=
  [ ⟨"CFG",      0x01000000000000000000000000000000#128, 0xFF00FFC0FFFFFFFFFFFFFFFFFFFFFFFF#128⟩,
    ⟨"ARM",      0x02000000000000000000000000000000#128, 0xFF00FFFF000000000000000000000000#128⟩,
    ⟨"EN",       0x03000000000000000000000000000000#128, 0xFF00FFFFFFFFFFFFFFFFFFFFFFFFFFFF#128⟩,
    ⟨"DIS",      0x04000000000000000000000000000000#128, 0xFF00FFFFFFFFFFFFFFFFFFFFFFFFFFFF#128⟩,
    ⟨"RUNQ",     0x05000000000000000000000000000000#128, 0xFF00FFFFFFFFFFFFFFFFFFFFFFFFFFFF#128⟩,
    ⟨"CNTQ",     0x06000000000000000000000000000000#128, 0xFF00FFFFFFFFFFFFFFFFFFFFFFFFFFFF#128⟩,
    ⟨"TCQ",      0x07000000000000000000000000000000#128, 0xFF00FFFFFFFFFFFFFFFFFFFFFFFFFFFF#128⟩,
    ⟨"CLRTC",    0x08000000000000000000000000000000#128, 0xFF00FFFFFFFFFFFFFFFFFFFFFFFFFFFF#128⟩ ]
  ++
  [ ⟨"CKSTART",  0x10000000000000000000000000000000#128, 0xFFFFFFFF0000000000000000FFFFFFFF#128⟩,
    ⟨"CKCANCEL", 0x11000000000000000000000000000000#128, 0xFFFFFFFFFFFFFFFFFFFFFFFFFFFFFFFF#128⟩,
    ⟨"CKSTAT",   0x12000000000000000000000000000000#128, 0xFFFFFFFFFFFFFFFFFFFFFFFFFFFFFFFF#128⟩,
    ⟨"ENCQ",     0x20000000000000000000000000000000#128, 0xFFFFFF00FFFFFFFFFFFFFFFFFFFFFFFF#128⟩,
    ⟨"ENCST",    0x21000000000000000000000000000000#128, 0xFFFFFF0000000000FFFFFFFFFFFFFFFF#128⟩,
    ⟨"ENCPX",    0x22000000000000000000000000000000#128, 0xFFFFFFFF00000000FF000000FFFFFFFF#128⟩,
    ⟨"ENCRST",   0x23000000000000000000000000000000#128, 0xFFFFFFFF00000000FFFFFFFF00000000#128⟩,
    ⟨"ORDER",    0x24000000000000000000000000000000#128, 0xFFFFFFFFFFFFFFFFFFFFFFFFFFFFFFFF#128⟩,
    ⟨"PERIOD",   0x25000000000000000000000000000000#128, 0xFFFFFFFF000000000000000000000000#128⟩ ]

/-- The six label rows. -/
def labelRows : List (TableRow 16) :=
  [ ⟨"REQ",     0x8000#16, 0xFF00#16⟩,
    ⟨"BUSERR",  0x8100#16, 0xFFFF#16⟩,
    ⟨"RST",     0x8200#16, 0xFFFF#16⟩,
    ⟨"SERVICE", 0x9000#16, 0xFFFF#16⟩,
    ⟨"RELOAD",  0x9100#16, 0xFFFF#16⟩,
    ⟨"FINISH",  0x9200#16, 0xFFFF#16⟩ ]

/-- The row test of R96, `(word & mask) = match`. -/
def TableRow.selects {n : Nat} (r : TableRow n) (w : BitVec n) : Bool := (w &&& r.mask) == r.pattern

end Sys2Proof
end

