-- ==== Sys2Proof/Machine/ResetEvent.lean ====
section
/-! DEFINITION. The event RST (spec/70_reset_and_hazards.md R280, spec/10_state.md R45). -/

namespace Sys2Proof.Machine

/-- The registers of channel `ch` after the RST numbered `draw`: CV, CNT, AV, EN, TCF and the log as R45 gives them,
the five unspecified registers free (log entry 4). -/
def channelAfterRst (draw ch : Nat) : Channel where
  cfg := cfgOfBits (Config.freeCfg draw ch)
  cv := false
  src := Config.freeSrc draw ch
  dst := Config.freeDst draw ch
  cntReload := Config.freeReload draw ch
  cur := Config.freeCur draw ch
  cnt := 0#16
  av := false
  en := false
  tcf := false
  out := []

/-- RST: every register of the block as after reset, the logs emptied, a store command in progress abandoned without a
response; memory unchanged (R280). The platform and the inputs still to come stay (log entry 23). -/
def execRst (s : State) : Result :=
  .next { s with
    chans := s.chans.mapIdx fun i _ => channelAfterRst s.resets i
    st := .idle, rem := 0#32, chunk := 0#16, done := false, err := false
    pulses := [], rsp := none, store := none, resets := s.resets + 1 }

end Sys2Proof.Machine
end

