-- ==== Sys2Proof/Machine/Transfer.lean ====
section
/-! DEFINITION. Data movement: the event REQ (spec/42_dma_transfer.md R180 to R184). -/

namespace Sys2Proof.Machine

/-- The registers after one element `r` was moved: the cursor advances, the count falls, and at zero a one-shot channel
completes (R182) and a circular one wraps (R183). -/
def advance (c : Channel) (r : OutRec) : Channel :=
  let moved := { c with out := c.out ++ [r], cur := c.cur + BitVec.ofNat 32 (elemSize c.cfg), cnt := c.cnt - 1#16 }
  if moved.cnt = 0#16 then
    if c.cfg.circ then { moved with cnt := c.cntReload, cur := c.src } else raiseTcf moved
  else moved

/-- The two accesses of an element move touch only `Mapped` addresses (R180). -/
def moveEnabled (p : Params) (c : Channel) : Bool :=
  accessible p c.cur.toNat (elemSize c.cfg) && accessible p c.dst.toNat (elemSize c.cfg)

/-- The element move of R181, one atomic step. -/
def serve (s : State) (ch : ChIx) : State :=
  let c := s.chan ch
  let n := elemSize c.cfg
  let v := memRead s c.cur.toNat n
  (memWrite s c.dst.toNat n v).setChan ch (advance c ⟨c.dst, n, v⟩)

/-- REQ: served exactly when the channel is running and both accesses are enabled (R180, R181); dropped when it is not
running (R184); without effect, the channel stuck at its element, when an access is not `Mapped` (R66, D19; log
entry 10). -/
def execReq (ch : ChIx) (s : State) : Result :=
  if ch.toNat < s.nCh then
    if running (s.chan ch) && moveEnabled s.par (s.chan ch) then .next (serve s ch) else .next s
  else .refused (.noSuchWire ch)

end Sys2Proof.Machine
end

