-- ==== Sys2Proof/Machine/Dispatch.lean ====
section
/-! DEFINITION. The meaning of every operation: one arm per constructor of `Instr`. -/

namespace Sys2Proof.Machine

def exec (i : Instr) (s : State) : Host.Outcome State Fault Refusal :=
  match i with
  | .cfg ch f => Sys2Proof.Machine.execCfg ch f s
  | .arm ch src dst count => Sys2Proof.Machine.execArm ch src dst count s
  | .en ch => Sys2Proof.Machine.execEn ch s
  | .dis ch => Sys2Proof.Machine.execDis ch s
  | .runq ch => Sys2Proof.Machine.execRunq ch s
  | .cntq ch => Sys2Proof.Machine.execCntq ch s
  | .tcq ch => Sys2Proof.Machine.execTcq ch s
  | .clrtc ch => Sys2Proof.Machine.execClrtc ch s
  | .ckstart len off => Sys2Proof.Machine.execCkstart len off s
  | .ckcancel => Sys2Proof.Machine.execCkcancel s
  | .ckstat => Sys2Proof.Machine.execCkstat s
  | .encq value => Sys2Proof.Machine.execEncq value s
  | .encst addr value => Sys2Proof.Machine.execEncst addr value s
  | .encpx addr r g bl => Sys2Proof.Machine.execEncpx addr r g bl s
  | .encrst addr n => Sys2Proof.Machine.execEncrst addr n s
  | .order => Sys2Proof.Machine.execOrder s
  | .period coreClock frequency sampleCount => Sys2Proof.Machine.execPeriod coreClock frequency sampleCount s
  | .req ch => Sys2Proof.Machine.execReq ch s
  | .buserr => Sys2Proof.Machine.execBuserr s
  | .rst => Sys2Proof.Machine.execRst s
  | .service => Sys2Proof.Machine.execService s
  | .reload => Sys2Proof.Machine.execReload s
  | .finish => Sys2Proof.Machine.execFinish s

end Sys2Proof.Machine
end

