-- ==== Sys2Proof/Machine/HostAccess.lean ====
section
/-! DEFINITION. The host's own loads and stores (spec/00_scope.md R10, spec/30_encoding.md R101): plain memory
accesses, no commands of the block. -/

namespace Sys2Proof.Machine

/-- The address and size of a host access. -/
def accessRange : HostAccess → Addr × Nat
  | .st8 a _ => (a, 1)
  | .st16 a _ => (a, 2)
  | .ld8 a => (a, 1)
  | .ld16 a => (a, 2)

/-- The effect of an enabled host access: a store writes memory, a load leaves its value in `hostData`. -/
def accessEffect (s : State) : HostAccess → State
  | .st8 a v => memWrite s a.toNat 1 (v.setWidth 16)
  | .st16 a v => memWrite s a.toNat 2 v
  | .ld8 a => { s with hostData := memRead s a.toNat 1 }
  | .ld16 a => { s with hostData := memRead s a.toNat 2 }

/-- A host access: a fault where R66 does not enable it (log entry 11). -/
def hostAccess (a : HostAccess) (s : State) : Result :=
  let (addr, n) := accessRange a
  if addrSpace < addr.toNat + n then .fault (.hostPastTop addr)
  else if accessible s.par addr.toNat n then .next (accessEffect s a)
  else .fault (.hostUnmapped addr)

end Sys2Proof.Machine
end

