-- ==== Sys2Proof/Machine/Fetch.lean ====
section
/-! DEFINITION. Which step comes next: the schedule's first entry, or the block's own steps when it is empty
(spec/00_scope.md R10 to R12; spec/30_encoding.md R97 to R99; log entries 5 to 7). -/

namespace Sys2Proof.Machine

/-- What the next step is: an operation to execute, or one already answered (an illegal command word, a byte write or
memory access of the host, nothing). -/
inductive Due where
  | run (i : Instr) (s : State)
  | answered (r : Result)

/-- The state with the first schedule entry taken off. -/
def State.popInput (s : State) : State := { s with sched := s.sched.tail }

/-- An entry of the host's: it waits while a store command is in progress, whose next byte is then written (R12). -/
def hostTurn (s : State) (go : Due) : Due := if s.hostBusy then .answered (hostByteStep s) else go

/-- With nothing scheduled the FSM takes its enabled step by itself (R99), else the host's store command goes on, else
nothing happens (log entry 7). -/
def ownStep (s : State) : Due :=
  if serviceEnabled s then .run .service s
  else if s.st = .reloadNext then .run .reload s
  else if s.st = .done then .run .finish s
  else .answered (hostByteStep s)

/-- The next step. -/
def due (s : State) : Due :=
  match s.sched with
  | [] => ownStep s
  | .cmd w :: _ =>
    hostTurn s <|
      match decodeCmd w with
      | .ok i => .run i s.popInput
      | .error _ => .answered (reject s.popInput .eOp)
  | .evt w :: _ =>
    match decodeLabel w with
    | .ok i => .run i s.popInput
    | .error _ => .answered (.refused (.noSuchStep w))
  | .access a :: _ => hostTurn s (.answered (hostAccess a s.popInput))
  | .hostByte :: _ => .answered (hostByteStep s.popInput)
  | .hostDone :: _ => hostTurn s (.answered (.next s.popInput))

/-- A table row's word as a schedule entry: a label of up to 16 bits, else a command word. -/
def inputOfWord (nbits w : Nat) : Input :=
  if nbits ≤ 16 then .evt (BitVec.ofNat 16 w) else .cmd (BitVec.ofNat 128 w)

end Sys2Proof.Machine
end

