-- ==== Sys2Proof/Machine/Step.lean ====
section
/-! DEFINITION. One step of the machine. -/

namespace Sys2Proof.Machine

/-- One atomic step (R10, R11): the operation that is due, executed, or the answer that is due without one. -/
def step (s : State) : Host.Outcome State Fault Refusal :=
  match due s with
  | .run i t => exec i t
  | .answered r => r

/-- The state whose next step runs the word `w` of `nbits` bits: the word stands first in the schedule and the host
has no command in progress, so that a command word is taken at once (log entry 5). -/
def State.withFetchWord (s : State) (nbits w : Nat) : State :=
  { s with sched := inputOfWord nbits w :: s.sched, store := none }

end Sys2Proof.Machine
end

