-- ==== Sys2Proof/Machine/Pseudo.lean ====
section
/-! DEFINITION. The pseudo-operations of spec/30_encoding.md R102: their expansions, and a host that runs one through
`step` while other agents take their turns between its commands; and the schedule that lists operations in order
(spec/70_reset_and_hazards.md R295). -/

namespace Sys2Proof.Machine

/-! ### Expansions -/

/-- One entry of an expansion (R102): a command to issue once, or a query to repeat until it says what is awaited. -/
inductive PseudoStep where
  | issue (i : Instr)
  | waitTc (ch : ChIx)
  | waitCk
deriving DecidableEq, Repr

/-- The four legal descriptor values: width W8 or W16, one-shot or circular (R95, R101). -/
def legalFields (w16 circular : Bool) : CfgFields :=
  ⟨circular, false, true, false, if w16 then 1#2 else 0#2⟩

/-- `recfg ch, W, mode` -/
def pseudoRecfg (ch : ChIx) (w16 circular : Bool) : List PseudoStep :=
  [.issue (.dis ch), .issue (.cfg ch (legalFields w16 circular)), .issue (.en ch)]

/-- `rearm ch, src, dst, count` -/
def pseudoRearm (ch : ChIx) (src dst : Addr) (count : BitVec 32) : List PseudoStep :=
  [.issue (.dis ch), .issue (.arm ch src dst count), .issue (.en ch)]

/-- `setup ch, W, mode, src, dst, count` -/
def pseudoSetup (ch : ChIx) (w16 circular : Bool) (src dst : Addr) (count : BitVec 32) : List PseudoStep :=
  [.issue (.dis ch), .issue (.cfg ch (legalFields w16 circular)), .issue (.arm ch src dst count), .issue (.en ch)]

/-- `ckabort` -/
def pseudoCkabort (p : Params) : List PseudoStep := [.issue (.dis p.chK), .issue .ckcancel]

/-- A 32-bit operand of exact value `n`; none where no operand word holds it. -/
def operand32 (n : Nat) : Option (BitVec 32) := if n < 2 ^ 32 then some (BitVec.ofNat 32 n) else none

/-- `ledframe` from exact address `a` on: one ENCPX a pixel, 24 bytes apart, then ENCRST of `z` bytes, every operand the
exact number of R102. DESIGN CHOICE (log entry 26): at the first operand of 2^32 or more, which no command word holds,
the sequence ends. -/
def ledframeFrom (z : Nat) : (a : Nat) → List (Byte × Byte × Byte) → List PseudoStep
  | a, [] =>
    match operand32 a, operand32 z with
    | some addr, some n => [.issue (.encrst addr n)]
    | _, _ => []
  | a, c :: cs =>
    match operand32 a with
    | some addr => .issue (.encpx addr c.1 c.2.1 c.2.2) :: ledframeFrom z (a + 24) cs
    | none => []

/-- `ledframe addr, (r, g, b), …`: the pixels, then RESET_BYTES zero bytes (R125). A pixel that passes the top of the
address space is issued, ENCPX answers E_RANGE (R133), and the sequence stops there (R102). -/
def pseudoLedframe (p : Params) (addr : Addr) (colors : List (Byte × Byte × Byte)) : List PseudoStep :=
  ledframeFrom p.resetBytes addr.toNat colors

/-- `wait_tc ch` -/
def pseudoWaitTc (ch : ChIx) : List PseudoStep := [.waitTc ch]

/-- `wait_ck` -/
def pseudoWaitCk : List PseudoStep := [.waitCk]

/-! ### The host running a pseudo-operation -/

/-- The command an entry issues: a wait repeats TCQ or CKSTAT (R102). -/
def PseudoStep.command : PseudoStep → Instr
  | .issue i => i
  | .waitTc ch => .tcq ch
  | .waitCk => .ckstat

/-- Does the response of an accepted command end the entry? `wait_tc` awaits bit 0, `wait_ck` DONE or ERR (R102). -/
def PseudoStep.over : PseudoStep → Response → Bool
  | .issue _, _ => true
  | .waitTc _, r => r.data.getLsbD 0
  | .waitCk, r => r.data.getLsbD 34 || r.data.getLsbD 35

/-- A pseudo-operation in progress: the entries the host has still to issue, and the machine. -/
structure PseudoRun where
  todo : List PseudoStep
  s : State
deriving DecidableEq, Repr

/-- Whose turn it is: the host's, or that of the agent whose step the label word names (R10, R98). -/
inductive Turn where
  | host
  | other (w : LabelWord)
deriving DecidableEq, Repr

/-- The state with an input put before those still to come. -/
def State.offer (s : State) (x : Input) : State := { s with sched := x :: s.sched }

/-- An operation as an input, on its port (R100). -/
def inputOf (i : Instr) : Input :=
  match encode i with
  | .cmd w => .cmd w
  | .evt w => .evt w

/-- What is left to issue once entry `a` was taken and the machine is in `t`: nothing after a rejection, the same entry
again where it is a wait that is not over (R102). With no response yet, `a` is an accepted store command. -/
def todoAfter (a : PseudoStep) (rest : List PseudoStep) (t : State) : List PseudoStep :=
  match t.rsp with
  | none => rest
  | some r => if r.status ≠ statusCode .ok then [] else if a.over r then rest else a :: rest

/-- What is left to issue after another agent's step: all of it, but for an RST that abandons the host's store command,
whose response the host would have had to await (R12, R280; log entry 27). -/
def todoAfterOther (x : PseudoRun) (t : State) : List PseudoStep :=
  if x.s.hostBusy && !t.hostBusy then [] else x.todo

/-- The outcome of a machine step, with the entries that are left after it. -/
def withTodo (left : State → List PseudoStep) : Result → Host.Outcome PseudoRun Fault Refusal
  | .next t => .next ⟨left t, t⟩
  | .fault f => .fault f
  | .refused r => .refused r

/-- One turn: the host goes on with its store command if one is in progress, else issues the next entry, else does
nothing; or another agent takes its step, "the sequence is not atomic" (R102). -/
def pseudoTurn (who : Turn) (x : PseudoRun) : Host.Outcome PseudoRun Fault Refusal :=
  match who with
  | .other w => withTodo (todoAfterOther x) (step (x.s.offer (.evt w)))
  | .host =>
    if x.s.hostBusy then withTodo (fun _ => x.todo) (step (x.s.offer .hostByte))
    else
      match x.todo with
      | [] => .next x
      | a :: rest => withTodo (todoAfter a rest) (step (x.s.offer (inputOf a.command)))

/-- A run of a pseudo-operation with the turns in the given order. Every list of turns is an interleaving, and a wait
goes on for as many of the host's turns as the list has (R102: no bound on the repeats). -/
def runPseudo : List Turn → PseudoRun → Host.Outcome PseudoRun Fault Refusal
  | [], x => .next x
  | w :: ws, x =>
    match pseudoTurn w x with
    | .next y => runPseudo ws y
    | .fault f => .fault f
    | .refused r => .refused r

/-- Has the pseudo-operation ended, by its last entry or at a rejected command? -/
def PseudoRun.ended (x : PseudoRun) : Bool := x.todo.isEmpty && !x.s.hostBusy

/-! ### Plain schedules -/

/-- Operations as schedule entries, one after the other, where what follows a command waits for its response (R295).
It is no pseudo-operation: what follows a rejected command is issued all the same, as in program P4. -/
def inOrder (is : List Instr) : List Input :=
  is.flatMap fun i => if i.isCommand then [inputOf i, .hostDone] else [inputOf i]

end Sys2Proof.Machine
end

