-- ==== Sys2Proof/Safety.lean ====
section
/-! DEFINITION. The terms the claims use: the invariants of spec/10_state.md R33 and R39, the frame of a step (what it
leaves as it was), and the quantities a chunked transfer conserves (spec/43_chunk_fsm.md R211). -/

namespace Sys2Proof.Machine

/-! ### Invariants -/

/-- The channel invariants I1 to I5 (R33). -/
abbrev ChannelInv (c : Channel) : Prop :=
  (c.av = true → c.cv = true)
    ∧ (c.cnt ≠ 0#16 → c.av = true)
    ∧ (c.av = true →
        c.src.toNat % elemSize c.cfg = 0 ∧ c.dst.toNat % elemSize c.cfg = 0 ∧ 1 ≤ c.cntReload.toNat
          ∧ c.src.toNat + c.cntReload.toNat * elemSize c.cfg ≤ addrSpace)
    ∧ (c.cnt ≠ 0#16 →
        c.cur.toNat % elemSize c.cfg = 0 ∧ c.src.toNat ≤ c.cur.toNat
          ∧ c.cur.toNat + c.cnt.toNat * elemSize c.cfg ≤ addrSpace)
    ∧ (c.cv = true → cfgLegal c.cfg = true)

/-- K1 and K5 in Active (R39), with what an inductive proof needs beside them: the addresses stay valid, the chunk in
flight is `min(REM, CAP)`, and the cursor has not passed the top while there is more to move. -/
abbrev ActiveInv (s : State) : Prop :=
  s.kChan.en = true ∧ cfgChunkable s.kChan.cfg = true ∧ s.kChan.av = true
    ∧ 1 ≤ s.chunk.toNat ∧ s.chunk.toNat ≤ s.par.cap.toNat ∧ s.chunk.toNat ≤ s.rem.toNat
    ∧ s.chunk = chunkLength s.par s.rem
    ∧ s.kChan.cnt.toNat ≤ s.chunk.toNat
    ∧ (s.kChan.tcf = true ↔ s.kChan.cnt = 0#16)
    ∧ s.kChan.cur.toNat + s.kChan.cnt.toNat + (s.rem.toNat - s.chunk.toNat) ≤ addrSpace
    ∧ (s.kChan.cnt ≠ 0#16 ∨ s.chunk.toNat < s.rem.toNat → s.kChan.src.toNat ≤ s.kChan.cur.toNat)

/-- K2 and K5 in ReloadNext (R36, R39), with what an inductive proof needs beside them. -/
abbrev ReloadNextInv (s : State) : Prop :=
  s.kChan.en = true ∧ cfgChunkable s.kChan.cfg = true ∧ s.kChan.av = true
    ∧ s.kChan.cnt = 0#16 ∧ s.kChan.tcf = false ∧ 1 ≤ s.rem.toNat
    ∧ 1 ≤ s.chunk.toNat ∧ s.chunk.toNat ≤ s.par.cap.toNat
    ∧ s.kChan.src.toNat ≤ s.kChan.cur.toNat ∧ s.kChan.cur.toNat + s.rem.toNat ≤ addrSpace

/-- K3 (R36, R39). -/
abbrev DoneInv (s : State) : Prop :=
  s.kChan.en = true ∧ s.kChan.cnt = 0#16 ∧ s.kChan.tcf = false ∧ s.rem = 0#32
    ∧ 1 ≤ s.chunk.toNat ∧ s.chunk.toNat ≤ s.par.cap.toNat

/-- The chunk invariants (R39). -/
abbrev ChunkInv (s : State) : Prop :=
  (s.st = .active → ActiveInv s) ∧ (s.st = .reloadNext → ReloadNextInv s) ∧ (s.st = .done → DoneInv s)

/-- A store command in progress has a byte left to write and ends below 2^32 (R75, R131). -/
abbrev StoreInv (s : State) : Prop :=
  (s.store.all fun j => decide (1 ≤ jobLength j) && decide (j.next.toNat + jobLength j ≤ addrSpace)) = true

/-- The invariant of the machine: a legal instance, R33 on every channel, R39, the store command's bounds, and memory
in its canonical form. -/
abbrev Inv (s : State) : Prop :=
  s.par.wellFormed s.nCh = true ∧ (∀ c ∈ s.chans, ChannelInv c) ∧ ChunkInv s ∧ StoreInv s ∧ Memory.wf s.mem

/-! ### Frames -/

/-- The instance, the inputs to come, and the model's own fields are as they were. -/
abbrev KeepsPlatform (s t : State) : Prop :=
  t.par = s.par ∧ t.nCh = s.nCh ∧ t.sched = s.sched ∧ t.hostData = s.hostData ∧ t.resets = s.resets

/-- Every byte of memory reads as before. -/
abbrev KeepsMemory (s t : State) : Prop := ∀ a : Nat, t.byte a = s.byte a

/-- The store command in progress, if any, is as it was. -/
abbrev KeepsStore (s t : State) : Prop := t.store = s.store

/-- The chunk FSM's five registers are as they were (R34 to R38). -/
abbrev KeepsFsm (s t : State) : Prop :=
  t.st = s.st ∧ t.rem = s.rem ∧ t.chunk = s.chunk ∧ t.done = s.done ∧ t.err = s.err

/-- No pulse was raised (R40). -/
abbrev KeepsPulses (s t : State) : Prop := t.pulses = s.pulses

/-- The registers and log of every channel but `ch` are as they were. -/
abbrev KeepsOtherChannels (ch : ChIx) (s t : State) : Prop := ∀ j : ChIx, j ≠ ch → t.chan j = s.chan j

/-- The registers and log of every channel are as they were. -/
abbrev KeepsChannels (s t : State) : Prop := ∀ j : ChIx, t.chan j = s.chan j

/-- The response of an accepted command with result `d` (R8, R92). -/
abbrev Accepted (t : State) (d : BitVec 64) : Prop := t.rsp = some ⟨0#4, d⟩

/-- The state after a rejection with the 4-bit code `code`: the response, and nothing else (R243). -/
def rejectedState (s : State) (code : BitVec 4) : State := { s with rsp := some ⟨code, 0#64⟩ }

/-- What a DMA command leaves as it was: all but channel `ch` and the response (R150). -/
abbrev DmaFrame (ch : ChIx) (s t : State) : Prop :=
  KeepsOtherChannels ch s t ∧ KeepsFsm s t ∧ KeepsPulses s t ∧ KeepsStore s t ∧ KeepsMemory s t ∧ KeepsPlatform s t

/-- The registers of the block as R45 gives them after reset. -/
abbrev BlockReset (s : State) : Prop :=
  (∀ c ∈ s.chans, c.en = false ∧ c.tcf = false ∧ c.cv = false ∧ c.av = false ∧ c.cnt = 0#16 ∧ c.out = [])
    ∧ s.st = .idle ∧ s.rem = 0#32 ∧ s.chunk = 0#16 ∧ s.done = false ∧ s.err = false ∧ s.pulses = [] ∧ s.rsp = none
    ∧ (∀ ch : ChIx, irqTc s ch = false) ∧ irqChunkDone s = false

/-- A REQ on channel `ch` is served: the channel runs and both accesses of the move are mapped (R180). -/
abbrev Serves (s : State) (ch : ChIx) : Prop :=
  ch.toNat < s.nCh ∧ (s.chan ch).en = true ∧ (s.chan ch).cnt ≠ 0#16
    ∧ (∀ j < elemSize (s.chan ch).cfg, mapped s.par ((s.chan ch).cur.toNat + j) = true)
    ∧ (∀ j < elemSize (s.chan ch).cfg, mapped s.par ((s.chan ch).dst.toNat + j) = true)

/-- The value of the element at the cursor, bits 7..0 at the lower address (R61, R181). -/
def elementAt (s : State) (ch : ChIx) : Nat :=
  (s.byte (s.chan ch).cur.toNat).toNat
    + if (s.chan ch).cfg.width = 0#2 then 0 else 256 * (s.byte ((s.chan ch).cur.toNat + 1)).toNat

/-- The registers a served request never writes (R43). -/
abbrev KeepsDescriptor (c d : Channel) : Prop :=
  d.cfg = c.cfg ∧ d.cv = c.cv ∧ d.src = c.src ∧ d.dst = c.dst ∧ d.cntReload = c.cntReload ∧ d.av = c.av ∧ d.en = c.en

/-- What a served request leaves as it was beside its channel and its destination bytes (R181, R186). -/
abbrev ReqFrame (ch : ChIx) (s t : State) : Prop :=
  KeepsDescriptor (s.chan ch) (t.chan ch) ∧ KeepsOtherChannels ch s t ∧ KeepsFsm s t ∧ KeepsPulses s t
    ∧ KeepsStore s t ∧ KeepsPlatform s t ∧ t.rsp = s.rsp

/-! ### The quantities a chunked transfer conserves -/

/-- `ceil(a / b)` (R7). -/
def ceilDiv (a b : Nat) : Nat := (a + b - 1) / b

/-- The RELOAD steps a chunked transfer has still to take: `ceil(REM / CAP) − 1` with a chunk in flight,
`ceil(REM / CAP)` between chunks, none in Done and Idle (R211). -/
def reloadsLeft (s : State) : Nat :=
  match s.st with
  | .active => ceilDiv s.rem.toNat s.par.cap.toNat - 1
  | .reloadNext => ceilDiv s.rem.toNat s.par.cap.toNat
  | .done => 0
  | .idle => 0

/-- The bytes a chunked transfer has still to move (R39 K5). -/
def bytesLeft (s : State) : Nat :=
  match s.st with
  | .active => s.kChan.cnt.toNat + (s.rem.toNat - s.chunk.toNat)
  | .reloadNext => s.rem.toNat
  | .done => 0
  | .idle => 0

/-- The end address of the logical transfer, `CUR[k]` and the bytes still to move (R39 K5). -/
def chunkEnd (s : State) : Nat := s.kChan.cur.toNat + bytesLeft s

/-! ### Schedules -/

/-- `req ch * n` as schedule entries (R101). -/
def reqInputs (ch : ChIx) (n : Nat) : List Input := List.replicate n (.evt (packLabel 0x80#8 ch))

/-- The inputs of the rest of a chunked transfer of `left` bytes, with a fresh chunk in flight: the chunk's requests and
SERVICE, then RELOAD and the next chunk, or FINISH. `fuel` bounds the number of chunks. -/
def chunkInputs (k : ChIx) (cap : Nat) : (fuel left : Nat) → List Input
  | 0, _ => []
  | fuel + 1, left =>
    if left ≤ cap then reqInputs k left ++ [.evt 0x9000#16, .evt 0x9200#16]
    else reqInputs k cap ++ [.evt 0x9000#16, .evt 0x9100#16] ++ chunkInputs k cap fuel (left - cap)

/-- The machine's `n`-step run. -/
def run (n : Nat) (s : State) : Host.Outcome State Fault Refusal := Sys2Proof.core.run n s

end Sys2Proof.Machine
end

