-- ==== Sys2Proof/Certificates/Slice0/Obligations.lean ====
section
/-! DEFINITION. The statements for the provers: rules of spec/ about single operations, frames, rules of the whole
machine, invariants and runs. Each docstring names the rules a statement formalises. -/

open Sys2Proof Sys2Proof.Machine

/-! ### Reset -/

/-- After reset every register holds the value R45 gives it. Formalises R45. -/
def Obligations.ResetLeavesTheSpecifiedValues : Prop :=
  BlockReset State.reset ∧ step State.reset = .next State.reset

/-- RST resets every register of the block, abandons a store command, keeps memory. Rests on R280, R45. Model's
choice: log entry 23. -/
def Obligations.RstPutsTheBlockIntoReset : Prop :=
  ∀ s : State, ∃ t, exec .rst s = .next t ∧ BlockReset t ∧ t.store = none ∧ KeepsMemory s t
    ∧ t.nCh = s.nCh ∧ t.par = s.par ∧ t.sched = s.sched ∧ t.hostData = s.hostData

/-! ### Encodings -/

/-- The worked encodings of R104 decode to their operations, and encode back. Formalises R104. -/
def Obligations.SpecWordsDecode : Prop :=
  ∀ x ∈ [
      (PortWord.cmd 0x01000008000000000000000000000000#128, Instr.cfg 0#8 (legalFields false false)),
      (.cmd 0x01010029000000000000000000000000#128, .cfg 1#8 (legalFields true true)),
      (.cmd 0x02000000200000004001300C00000058#128, .arm 0#8 0x20000000#32 0x4001300C#32 88#32),
      (.cmd 0x03000000000000000000000000000000#128, .en 0#8),
      (.cmd 0x10000000000004000000000000000000#128, .ckstart 1024#32 0#32),
      (.cmd 0x210000A5200000000000000000000000#128, .encst 0x20000000#32 0xA5#8),
      (.cmd 0x22000000200000000012345600000000#128, .encpx 0x20000000#32 0x12#8 0x34#8 0x56#8),
      (.cmd 0x2500000000F42400000001B800000020#128, .period 16000000#32 440#32 32#32),
      (.evt 0x8001#16, .req 1#8)],
    decode x.1 = .ok x.2 ∧ encode x.2 = x.1

/-- Decoding an encoded operation gives it back, for every operation and operand. Rests on R90, R91, R95, R98. -/
def Obligations.DecodeOfEncode : Prop :=
  ∀ i : Instr, decode (encode i) = .ok i

/-- Every word that decodes is the encoding of what it decodes to. Rests on R90, R91, R95, R96, R98. -/
def Obligations.EncodeOfDecode : Prop :=
  ∀ (p : PortWord) (i : Instr), decode p = .ok i → encode i = p

/-- A word is legal exactly when a row of the opcode table selects it. Rests on R96, R97, R98. -/
def Obligations.WordDecodesIffATableRowSelectsIt : Prop :=
  (∀ w : CmdWord, (∃ i, decodeCmd w = .ok i) ↔ ∃ r ∈ commandRows, r.selects w = true)
    ∧ (∀ w : LabelWord, (∃ i, decodeLabel w = .ok i) ↔ ∃ r ∈ labelRows, r.selects w = true)

/-! ### The step -/

/-- The word at the head of the schedule is decoded and executed. Rests on R10, R12, R98, R103. Model's choice: log
entry 5. -/
def Obligations.StepRunsTheDecodedOperation : Prop :=
  ∀ (s : State) (rest : List Input) (i : Instr),
    (∀ w, s.sched = .cmd w :: rest → s.store = none → decodeCmd w = .ok i →
      step s = exec i { s with sched := rest })
    ∧ (∀ w, s.sched = .evt w :: rest → decodeLabel w = .ok i → step s = exec i { s with sched := rest })
    ∧ (∀ w : CmdWord, decodeCmd w = .ok i → step (s.withFetchWord 128 w.toNat) = exec i { s with store := none })
    ∧ (∀ w : LabelWord, decodeLabel w = .ok i → step (s.withFetchWord 16 w.toNat) = exec i { s with store := none })

/-- A command word is executed if a row of the command table selects it, and else answered E_OP with no effect.
Formalises R97. -/
def Obligations.EveryWordIsACommandOrIllegal : Prop :=
  ∀ (s : State) (w : CmdWord) (rest : List Input), s.sched = .cmd w :: rest → s.store = none →
    ((∀ r ∈ commandRows, r.selects w = false) →
      step s = .next { s with sched := rest, rsp := some ⟨1#4, 0#64⟩ })
    ∧ ((∃ r ∈ commandRows, r.selects w = true) →
      ∃ i, i.isCommand = true ∧ decodeCmd w = .ok i ∧ step s = exec i { s with sched := rest })

/-- While a store command is in progress the next host entry is not taken; a byte is written instead. Rests on R12,
R76, R131. Model's choice: log entry 8. -/
def Obligations.HostWaitsForItsStoreCommand : Prop :=
  ∀ (s : State) (j : StoreJob) (rest : List Input), s.store = some j →
    (∀ w, s.sched = .cmd w :: rest → step s = hostByteStep s)
      ∧ (∀ a, s.sched = .access a :: rest → step s = hostByteStep s)

/-- With nothing scheduled the FSM takes its enabled step, else the host goes on (log entry 7). Rests on
spec/30_encoding.md R99, spec/00_scope.md R11. -/
def Obligations.UnscheduledStepsAreTheFsmsOwn : Prop :=
  ∀ s : State, s.sched = [] →
    (s.st = .active → s.kChan.tcf = true → step s = exec .service s)
      ∧ (s.st = .reloadNext → step s = exec .reload s)
      ∧ (s.st = .done → step s = exec .finish s)
      ∧ (s.st = .active → s.kChan.tcf = false → step s = hostByteStep s)
      ∧ (s.st = .idle → step s = hostByteStep s)
      ∧ (s.st = .idle → s.store = none → step s = .next s)

/-- A host store writes its bytes little-endian, a host load reads them, and nothing else changes. Rests on R10, R61,
R66. Model's choice: log entry 21. -/
def Obligations.HostStoreAndLoad : Prop :=
  ∀ (s : State) (a : Addr), Memory.wf s.mem →
    (mapped s.par a.toNat = true → keeps s.par a.toNat = true →
      (∀ v : Byte, ∃ t, hostAccess (.st8 a v) s = .next t ∧ t.byte a.toNat = v
        ∧ (∀ b, b ≠ a.toNat → t.byte b = s.byte b) ∧ { t with mem := s.mem } = s)
      ∧ hostAccess (.ld8 a) s = .next { s with hostData := (s.byte a.toNat).setWidth 16 })
    ∧ ((∀ j < 2, mapped s.par (a.toNat + j) = true ∧ keeps s.par (a.toNat + j) = true) →
      (∀ v : BitVec 16, ∃ t, hostAccess (.st16 a v) s = .next t
        ∧ t.byte a.toNat = v.extractLsb' 0 8 ∧ t.byte (a.toNat + 1) = v.extractLsb' 8 8
        ∧ (∀ b, b ≠ a.toNat → b ≠ a.toNat + 1 → t.byte b = s.byte b) ∧ { t with mem := s.mem } = s)
      ∧ hostAccess (.ld16 a) s = .next { s with hostData := s.byte (a.toNat + 1) ++ s.byte a.toNat })

/-! ### The Bit Encoder -/

/-- LedEnc gives 8 bytes, the i-th LONG_HIGH exactly when bit 7-i is 1. Formalises R120. -/
def Obligations.LedEncSelectsLongHighByBit : Prop :=
  ∀ (p : Params) (v : Byte), (ledEnc p v).length = 8
    ∧ ∀ i < 8, (ledEnc p v)[i]? = some (if v.getLsbD (7 - i) then p.longHigh else p.shortHigh)

/-- LedDec is defined exactly on canonical bytes, and recovers encoded values and pixels. Formalises R126. -/
def Obligations.LedDecInvertsTheEncoder : Prop :=
  ∀ p : Params, p.longHigh ≠ p.shortHigh →
    (∀ bs : List Byte, bs.length = 8 →
      ((∀ b ∈ bs, b = p.longHigh ∨ b = p.shortHigh) →
        ∃ v, ledDec p bs = some v ∧ ∀ i < 8, (v.getLsbD (7 - i) = true ↔ bs[i]? = some p.longHigh))
      ∧ ((∃ b ∈ bs, b ≠ p.longHigh ∧ b ≠ p.shortHigh) → ledDec p bs = none))
    ∧ (∀ v : Byte, ledDec p (ledEnc p v) = some v)
    ∧ (∀ r g bl : Byte, ledDec p ((ledPixel p r g bl).take 8) = some g
        ∧ ledDec p (((ledPixel p r g bl).drop 8).take 8) = some r
        ∧ ledDec p ((ledPixel p r g bl).drop 16) = some bl)

/-- LedFrame of m pixels and z zeros has 24m + z bytes and ends in z zero bytes. Rests on R125, R123, R124. -/
def Obligations.LedFrameHasItsLengthAndTail : Prop :=
  ∀ (p : Params) (cs : List (Byte × Byte × Byte)) (z : Nat),
    (ledFrame p cs z).length = 24 * cs.length + z
      ∧ (ledFrame p cs z).drop (24 * cs.length) = List.replicate z 0#8
      ∧ ∀ (i : Nat) (c : Byte × Byte × Byte), cs[i]? = some c →
          ((ledFrame p cs z).drop (24 * i)).take 24 = ledEnc p c.2.1 ++ ledEnc p c.1 ++ ledEnc p c.2.2

/-- ENCQ answers LedEnc(value), wire byte i in byte lane i, and changes nothing else. Rests on R130, R120, R61. -/
def Obligations.EncqAnswersTheWireBytes : Prop :=
  ∀ (s : State) (v : Byte), ∃ d : BitVec 64, exec (.encq v) s = .next { s with rsp := some ⟨0#4, d⟩ }
    ∧ ∀ i < 8, d.extractLsb' (8 * i) 8 = if v.getLsbD (7 - i) then s.par.longHigh else s.par.shortHigh

/-- ORDER answers 0x21 and changes nothing else. Rests on R135, R122. -/
def Obligations.OrderAnswersGreenRedBlue : Prop :=
  ∀ s : State, exec .order s = .next { s with rsp := some ⟨0#4, 0x21#64⟩ }

/-- PERIOD answers floor(core_clock / (frequency * sample_count)), or E_DIV for a zero product. Rests on R136, R128.
-/
def Obligations.PeriodAnswersTheTruncatedQuotient : Prop :=
  ∀ (s : State) (clock freq count : BitVec 32),
    (freq ≠ 0#32 → count ≠ 0#32 → ∃ d : BitVec 64,
      exec (.period clock freq count) s = .next { s with rsp := some ⟨0#4, d⟩ }
        ∧ d.toNat = clock.toNat / (freq.toNat * count.toNat))
    ∧ (freq = 0#32 ∨ count = 0#32 → exec (.period clock freq count) s = .next (rejectedState s 10#4))

/-- ENCST, ENCPX and ENCRST start their byte writes, or answer E_RANGE past the top of the address space. Rests on
R131, R132, R133, R134, R75. Model's choice: log entries 8, 9. -/
def Obligations.StoreCommandsBegin : Prop :=
  ∀ (s : State) (addr : Addr),
    (∀ v : Byte,
      (addr.toNat + 8 ≤ 2 ^ 32 →
        exec (.encst addr v) s = .next { s with store := some ⟨addr, ledEnc s.par v, 0⟩, rsp := none })
      ∧ (2 ^ 32 < addr.toNat + 8 → exec (.encst addr v) s = .next (rejectedState s 9#4)))
    ∧ (∀ r g bl : Byte,
      (addr.toNat + 24 ≤ 2 ^ 32 →
        exec (.encpx addr r g bl) s = .next { s with
          store := some ⟨addr, ledEnc s.par g ++ ledEnc s.par r ++ ledEnc s.par bl, 0⟩, rsp := none })
      ∧ (2 ^ 32 < addr.toNat + 24 → exec (.encpx addr r g bl) s = .next (rejectedState s 9#4)))
    ∧ (∀ n : BitVec 32,
      (addr.toNat + n.toNat ≤ 2 ^ 32 → n ≠ 0#32 →
        exec (.encrst addr n) s = .next { s with store := some ⟨addr, [], n.toNat⟩, rsp := none })
      ∧ (n = 0#32 → exec (.encrst addr n) s = .next { s with rsp := some ⟨0#4, 0#64⟩ })
      ∧ (2 ^ 32 < addr.toNat + n.toNat → exec (.encrst addr n) s = .next (rejectedState s 9#4)))

/-- A store command writes exactly its bytes at ascending addresses and then responds OK. Rests on R131, R132, R133,
R134, R76, R66. Model's choice: log entries 6, 8. -/
def Obligations.StoreCommandsLandInMemory : Prop :=
  ∀ (s : State) (addr : Addr) (v r g bl : Byte) (n : BitVec 32) (rest : List Input),
    ∀ x ∈ [(Instr.encst addr v, ledEnc s.par v), (.encpx addr r g bl, ledPixel s.par r g bl),
        (.encrst addr n, resetPulse n.toNat)],
      Memory.wf s.mem → 1 ≤ x.2.length → addr.toNat + x.2.length ≤ 2 ^ 32 →
      (∀ i < x.2.length, mapped s.par (addr.toNat + i) = true ∧ keeps s.par (addr.toNat + i) = true) →
      s.sched = List.replicate x.2.length .hostByte ++ rest →
      ∃ t u, exec x.1 s = .next t ∧ run x.2.length t = .next u
        ∧ (∀ i < x.2.length, some (u.byte (addr.toNat + i)) = x.2[i]?)
        ∧ (∀ a, (a < addr.toNat ∨ addr.toNat + x.2.length ≤ a) → u.byte a = s.byte a)
        ∧ { u with mem := s.mem } = { s with store := none, rsp := some ⟨0#4, 0#64⟩, sched := rest }

/-! ### The DMA Transfer Controller -/

/-- The eight DMA commands answer E_CHAN for a channel that does not exist. Rests on R150, R103, R243. -/
def Obligations.DmaCommandsRejectAMissingChannel : Prop :=
  ∀ (s : State) (ch : ChIx), ¬ ch.toNat < s.nCh → ∀ (f : CfgFields) (src dst : Addr) (count : BitVec 32),
    ∀ i ∈ [Instr.cfg ch f, .arm ch src dst count, .en ch, .dis ch, .runq ch, .cntq ch, .tcq ch, .clrtc ch],
      exec i s = .next (rejectedState s 2#4)

/-- CFG on a disabled channel stores the fields, and disarms the channel if the width changes. Rests on R151. -/
def Obligations.CfgWritesTheFields : Prop :=
  ∀ (s : State) (ch : ChIx) (f : CfgFields), ch.toNat < s.nCh → (s.chan ch).en = false →
    (f.width = 0#2 ∨ f.width = 1#2) → f.dir = false → f.incSrc = true → f.incDst = false →
    ∃ t, exec (.cfg ch f) s = .next t ∧ Accepted t 0#64
      ∧ ((s.chan ch).av = true ∧ f.width ≠ (s.chan ch).cfg.width →
          t.chan ch = { s.chan ch with cfg := f, cv := true, av := false, cnt := 0#16 })
      ∧ (¬ ((s.chan ch).av = true ∧ f.width ≠ (s.chan ch).cfg.width) →
          t.chan ch = { s.chan ch with cfg := f, cv := true })
      ∧ DmaFrame ch s t

/-- CFG answers E_BUSY on an enabled channel, then E_FIELD for an illegal field. Rests on R151, R242, R243. -/
def Obligations.CfgRejections : Prop :=
  ∀ (s : State) (ch : ChIx) (f : CfgFields), ch.toNat < s.nCh →
    ((s.chan ch).en = true → exec (.cfg ch f) s = .next (rejectedState s 3#4))
    ∧ ((s.chan ch).en = false →
        f.width = 2#2 ∨ f.width = 3#2 ∨ f.dir = true ∨ f.incSrc = false ∨ f.incDst = true →
        exec (.cfg ch f) s = .next (rejectedState s 5#4))

/-- ARM with valid operands loads SRC, DST, CNT_RELOAD, CUR, CNT and sets AV. Rests on R152. -/
def Obligations.ArmLoadsTheDescriptor : Prop :=
  ∀ (s : State) (ch : ChIx) (src dst : Addr) (count : BitVec 32), ch.toNat < s.nCh →
    (s.chan ch).en = false → (s.chan ch).cv = true → 1 ≤ count.toNat → count.toNat ≤ 65535 →
    src.toNat % elemSize (s.chan ch).cfg = 0 → dst.toNat % elemSize (s.chan ch).cfg = 0 →
    src.toNat + count.toNat * elemSize (s.chan ch).cfg ≤ 2 ^ 32 →
    ∃ t n, exec (.arm ch src dst count) s = .next t ∧ Accepted t 0#64 ∧ n.toNat = count.toNat
      ∧ t.chan ch = { s.chan ch with src := src, dst := dst, cntReload := n, cur := src, cnt := n, av := true }
      ∧ DmaFrame ch s t

/-- ARM answers the smallest status code of the causes that hold, and changes nothing. Rests on R152, R242, R243. -/
def Obligations.ArmRejections : Prop :=
  ∀ (s : State) (ch : ChIx) (src dst : Addr) (count : BitVec 32), ch.toNat < s.nCh →
    let c := s.chan ch
    let badCount := count = 0#32 ∨ 65535 < count.toNat
    let badAlign := src.toNat % elemSize c.cfg ≠ 0 ∨ dst.toNat % elemSize c.cfg ≠ 0
    let badRange := 2 ^ 32 < src.toNat + count.toNat * elemSize c.cfg
    (c.en = true → exec (.arm ch src dst count) s = .next (rejectedState s 3#4))
    ∧ (c.en = false → c.cv = false → exec (.arm ch src dst count) s = .next (rejectedState s 4#4))
    ∧ (c.en = false → c.cv = true → badCount → exec (.arm ch src dst count) s = .next (rejectedState s 7#4))
    ∧ (c.en = false → c.cv = true → ¬ badCount → badAlign →
        exec (.arm ch src dst count) s = .next (rejectedState s 8#4))
    ∧ (c.en = false → c.cv = true → ¬ badCount → ¬ badAlign → badRange →
        exec (.arm ch src dst count) s = .next (rejectedState s 9#4))

/-- EN sets EN and nothing else. Rests on R153. -/
def Obligations.EnSetsTheGateAlone : Prop :=
  ∀ (s : State) (ch : ChIx), ch.toNat < s.nCh →
    ∃ t, exec (.en ch) s = .next t ∧ Accepted t 0#64 ∧ t.chan ch = { s.chan ch with en := true }
      ∧ DmaFrame ch s t

/-- DIS clears EN and, on CH_K with the FSM not Idle, forces the FSM to Idle and nothing else. Rests on R154, R208. -/
def Obligations.DisClearsTheGateAndFreesTheFsm : Prop :=
  ∀ (s : State) (ch : ChIx), ch.toNat < s.nCh →
    ∃ t, exec (.dis ch) s = .next t ∧ Accepted t 0#64 ∧ t.chan ch = { s.chan ch with en := false }
      ∧ (ch = s.par.chK → t.st = .idle) ∧ (ch ≠ s.par.chK → t.st = s.st)
      ∧ t.rem = s.rem ∧ t.chunk = s.chunk ∧ t.done = s.done ∧ t.err = s.err
      ∧ KeepsOtherChannels ch s t ∧ KeepsPulses s t ∧ KeepsStore s t ∧ KeepsMemory s t ∧ KeepsPlatform s t

/-- RUNQ, CNTQ and TCQ answer EN and CNT ≠ 0, the count, and the completion flag. Rests on R155, R156, R157, R77. -/
def Obligations.ChannelQueriesAnswer : Prop :=
  ∀ (s : State) (ch : ChIx), ch.toNat < s.nCh →
    ((s.chan ch).en = true → (s.chan ch).cnt ≠ 0#16 →
        exec (.runq ch) s = .next { s with rsp := some ⟨0#4, 1#64⟩ })
    ∧ ((s.chan ch).en = false ∨ (s.chan ch).cnt = 0#16 →
        exec (.runq ch) s = .next { s with rsp := some ⟨0#4, 0#64⟩ })
    ∧ (∃ d : BitVec 64, exec (.cntq ch) s = .next { s with rsp := some ⟨0#4, d⟩ }
        ∧ d.toNat = (s.chan ch).cnt.toNat)
    ∧ exec (.tcq ch) s = .next { s with rsp := some ⟨0#4, if (s.chan ch).tcf then 1#64 else 0#64⟩ }

/-- CLRTC clears TCF; on CH_K with the FSM not Idle it answers E_BUSY. Rests on R158. -/
def Obligations.ClrtcClearsTheFlag : Prop :=
  ∀ (s : State) (ch : ChIx), ch.toNat < s.nCh →
    (ch ≠ s.par.chK ∨ s.st = .idle →
      ∃ t, exec (.clrtc ch) s = .next t ∧ Accepted t 0#64 ∧ t.chan ch = { s.chan ch with tcf := false }
        ∧ DmaFrame ch s t)
    ∧ (ch = s.par.chK → s.st ≠ .idle → exec (.clrtc ch) s = .next (rejectedState s 3#4))

/-! ### Data movement -/

/-- A served request that is not the last moves one element: the log grows, CUR advances, CNT falls. Rests on R181,
R61, R186. Model's choice: log entry 9. -/
def Obligations.ReqMovesOneElement : Prop :=
  ∀ (s : State) (ch : ChIx), Serves s ch → (s.chan ch).cnt ≠ 1#16 →
    ∃ t v, exec (.req ch) s = .next t ∧ v.toNat = elementAt s ch
      ∧ (t.chan ch).out = (s.chan ch).out ++ [⟨(s.chan ch).dst, elemSize (s.chan ch).cfg, v⟩]
      ∧ (t.chan ch).cur.toNat = ((s.chan ch).cur.toNat + elemSize (s.chan ch).cfg) % 2 ^ 32
      ∧ (t.chan ch).cnt.toNat + 1 = (s.chan ch).cnt.toNat ∧ (t.chan ch).tcf = (s.chan ch).tcf ∧ ReqFrame ch s t

/-- The request that brings a one-shot channel to 0 sets TCF and leaves the channel enabled with CNT = 0. Rests on
R182, R181. Model's choice: log entry 9. -/
def Obligations.LastRequestCompletesAOneShot : Prop :=
  ∀ (s : State) (ch : ChIx), Serves s ch → (s.chan ch).cnt = 1#16 → (s.chan ch).cfg.circ = false →
    ∃ t v, exec (.req ch) s = .next t ∧ v.toNat = elementAt s ch
      ∧ (t.chan ch).out = (s.chan ch).out ++ [⟨(s.chan ch).dst, elemSize (s.chan ch).cfg, v⟩]
      ∧ (t.chan ch).cur.toNat = ((s.chan ch).cur.toNat + elemSize (s.chan ch).cfg) % 2 ^ 32
      ∧ (t.chan ch).cnt = 0#16 ∧ (t.chan ch).tcf = true ∧ irqTc t ch = true ∧ ReqFrame ch s t ∧ exec (.req ch) t = .next t

/-- The request that brings a circular channel to 0 reloads CNT and CUR and sets no flag. Rests on R183, R181. Model's
choice: log entry 9. -/
def Obligations.LastRequestWrapsACircular : Prop :=
  ∀ (s : State) (ch : ChIx), Serves s ch → (s.chan ch).cnt = 1#16 → (s.chan ch).cfg.circ = true →
    ∃ t v, exec (.req ch) s = .next t ∧ v.toNat = elementAt s ch
      ∧ (t.chan ch).out = (s.chan ch).out ++ [⟨(s.chan ch).dst, elemSize (s.chan ch).cfg, v⟩]
      ∧ (t.chan ch).cur = (s.chan ch).src ∧ (t.chan ch).cnt = (s.chan ch).cntReload
      ∧ (t.chan ch).tcf = (s.chan ch).tcf ∧ ReqFrame ch s t

/-- A served request copies the source bytes to DST, where the platform stores them, and writes no other byte. Rests
on R181, R65, R66. Model's choice: log entry 15. -/
def Obligations.ReqWritesItsDestinationOnly : Prop :=
  ∀ (s : State) (ch : ChIx), Memory.wf s.mem → Serves s ch →
    ∃ t, exec (.req ch) s = .next t
      ∧ (∀ j < elemSize (s.chan ch).cfg, keeps s.par ((s.chan ch).dst.toNat + j) = true →
          t.byte ((s.chan ch).dst.toNat + j) = s.byte ((s.chan ch).cur.toNat + j))
      ∧ (∀ j < elemSize (s.chan ch).cfg, keeps s.par ((s.chan ch).dst.toNat + j) = false →
          t.byte ((s.chan ch).dst.toNat + j) = s.byte ((s.chan ch).dst.toNat + j))
      ∧ (∀ a, (a < (s.chan ch).dst.toNat ∨ (s.chan ch).dst.toNat + elemSize (s.chan ch).cfg ≤ a) →
          t.byte a = s.byte a)

/-- A request on a channel that is not running changes nothing at all. Formalises R184. -/
def Obligations.UnservedRequestsAreDropped : Prop :=
  ∀ (s : State) (ch : ChIx), ch.toNat < s.nCh →
    ((s.chan ch).en = false ∨ (s.chan ch).cnt = 0#16) → exec (.req ch) s = .next s

/-- A request or an encoder byte write that touches an unmapped address is not taken and changes nothing. Rests on
R66, R180, R131, R255. Model's choice: log entries 10, 12. -/
def Obligations.UnmappedAccessesAreStuck : Prop :=
  (∀ (s : State) (ch : ChIx), ch.toNat < s.nCh → (s.chan ch).en = true → (s.chan ch).cnt ≠ 0#16 →
    (∃ j < elemSize (s.chan ch).cfg, mapped s.par ((s.chan ch).cur.toNat + j) = false
      ∨ mapped s.par ((s.chan ch).dst.toNat + j) = false) → exec (.req ch) s = .next s)
  ∧ ∀ (s : State) (j : StoreJob) (rest : List Input),
    s.store = some j → 1 ≤ j.bytes.length + j.zeros → mapped s.par j.next.toNat = false →
    s.sched = .hostByte :: rest → step s = .next { s with sched := rest }

/-- After j requests of a one-shot transfer of n elements: CNT = n - j, CUR = SRC + j*w, j elements delivered, TCF at
the n-th. Rests on R187, R182. -/
def Obligations.OneShotRunCountsDown : Prop :=
  ∀ (s : State) (ch : ChIx) (j : Nat) (rest : List Input),
    let c := s.chan ch
    let w := elemSize c.cfg
    ch.toNat < s.nCh → c.en = true → c.cfg.circ = false → c.tcf = false → 1 ≤ c.cnt.toNat → c.cur = c.src →
    (∀ i < c.cnt.toNat * w, mapped s.par (c.src.toNat + i) = true) →
    (∀ i < w, mapped s.par (c.dst.toNat + i) = true) → j ≤ c.cnt.toNat →
    s.sched = reqInputs ch j ++ rest →
    ∃ t recs, run j s = .next t ∧ (t.chan ch).cnt.toNat = c.cnt.toNat - j
      ∧ (t.chan ch).cur.toNat = (c.src.toNat + j * w) % 2 ^ 32
      ∧ (t.chan ch).out = c.out ++ recs ∧ recs.length = j ∧ (∀ r ∈ recs, r.addr = c.dst ∧ r.size = w)
      ∧ ((t.chan ch).tcf = true ↔ j = c.cnt.toNat) ∧ (t.chan ch).en = true ∧ t.sched = rest

/-- After j requests of a circular transfer of n elements: CNT = n - j mod n, CUR = SRC + (j mod n)*w, no flag. Rests
on R187, R183. -/
def Obligations.CircularRunCycles : Prop :=
  ∀ (s : State) (ch : ChIx) (j : Nat) (rest : List Input),
    let c := s.chan ch
    let w := elemSize c.cfg
    ch.toNat < s.nCh → c.en = true → c.cfg.circ = true → 1 ≤ c.cnt.toNat → c.cntReload = c.cnt → c.cur = c.src →
    (∀ i < c.cnt.toNat * w, mapped s.par (c.src.toNat + i) = true) →
    (∀ i < w, mapped s.par (c.dst.toNat + i) = true) →
    s.sched = reqInputs ch j ++ rest →
    ∃ t recs, run j s = .next t ∧ (t.chan ch).cnt.toNat = c.cnt.toNat - j % c.cnt.toNat
      ∧ (t.chan ch).cur.toNat = c.src.toNat + j % c.cnt.toNat * w
      ∧ (t.chan ch).out = c.out ++ recs ∧ recs.length = j ∧ (t.chan ch).tcf = c.tcf ∧ t.sched = rest

/-- Requests on two channels give the same registers, logs and memory in either order, if neither writes what the
other touches. Rests on R186, R69, R250. -/
def Obligations.RequestsOnTwoChannelsCommute : Prop :=
  ∀ (s : State) (a b : ChIx), a ≠ b → Memory.wf s.mem → Serves s a → Serves s b →
    (∀ i < elemSize (s.chan a).cfg, ∀ j < elemSize (s.chan b).cfg,
      (s.chan a).dst.toNat + i ≠ (s.chan b).dst.toNat + j
        ∧ (s.chan a).dst.toNat + i ≠ (s.chan b).cur.toNat + j
        ∧ (s.chan b).dst.toNat + j ≠ (s.chan a).cur.toNat + i) →
    ∃ u v t t', exec (.req a) s = .next u ∧ exec (.req b) u = .next t
      ∧ exec (.req b) s = .next v ∧ exec (.req a) v = .next t'
      ∧ (∀ ch, t.chan ch = t'.chan ch) ∧ (∀ x, t.byte x = t'.byte x)

/-! ### The Chunked Transfer State Machine -/

/-- CKSTART with its conditions met loads REM, CHUNK, CUR, CNT, enables the channel and enters Active. Rests on R202.
-/
def Obligations.CkstartBeginsATransfer : Prop :=
  ∀ (s : State) (len off : BitVec 32), s.par.chK.toNat < s.nCh → s.st = .idle → s.kChan.en = false →
    s.kChan.cv = true → s.kChan.av = true → s.kChan.cfg.width = 0#2 → s.kChan.cfg.circ = false →
    s.kChan.tcf = false → len ≠ 0#32 → s.kChan.src.toNat + off.toNat + len.toNat ≤ 2 ^ 32 →
    ∃ t n cur, exec (.ckstart len off) s = .next t ∧ Accepted t 0#64
      ∧ n.toNat = min len.toNat s.par.cap.toNat ∧ cur.toNat = s.kChan.src.toNat + off.toNat
      ∧ t.kChan = { s.kChan with cur := cur, cnt := n, en := true }
      ∧ t.st = .active ∧ t.rem = len ∧ t.chunk = n ∧ t.done = false ∧ t.err = false
      ∧ KeepsOtherChannels s.par.chK s t ∧ KeepsPulses s t ∧ KeepsStore s t ∧ KeepsMemory s t
      ∧ KeepsPlatform s t

/-- CKSTART answers the smallest status code of the causes that hold, and changes nothing. Rests on R202, R242, R243.
-/
def Obligations.CkstartRejections : Prop :=
  ∀ (s : State) (len off : BitVec 32),
    let c := s.kChan
    let busy := s.st ≠ .idle ∨ c.en = true
    let noCfg := c.cv = false ∨ c.av = false
    let badField := c.cfg.width ≠ 0#2 ∨ c.cfg.circ = true
    (busy → exec (.ckstart len off) s = .next (rejectedState s 3#4))
    ∧ (¬ busy → noCfg → exec (.ckstart len off) s = .next (rejectedState s 4#4))
    ∧ (¬ busy → ¬ noCfg → badField → exec (.ckstart len off) s = .next (rejectedState s 5#4))
    ∧ (¬ busy → ¬ noCfg → ¬ badField → c.tcf = true → exec (.ckstart len off) s = .next (rejectedState s 6#4))
    ∧ (¬ busy → ¬ noCfg → ¬ badField → c.tcf = false → len = 0#32 →
        exec (.ckstart len off) s = .next (rejectedState s 7#4))
    ∧ (¬ busy → ¬ noCfg → ¬ badField → c.tcf = false → len ≠ 0#32 →
        2 ^ 32 < c.src.toNat + off.toNat + len.toNat → exec (.ckstart len off) s = .next (rejectedState s 9#4))

/-- SERVICE clears the flag, subtracts CHUNK from REM and goes to ReloadNext or Done. Rests on R204. Model's choice:
log entry 9. -/
def Obligations.ServiceTakesTheCompletion : Prop :=
  (∀ (s t : State), exec .service s = .next t → s.st = .active ∧ s.kChan.tcf = true)
  ∧ ∀ s : State, s.par.chK.toNat < s.nCh → s.st = .active → s.kChan.tcf = true →
    s.chunk.toNat ≤ s.rem.toNat →
    ∃ t, exec .service s = .next t ∧ t.kChan = { s.kChan with tcf := false }
      ∧ t.rem.toNat = s.rem.toNat - s.chunk.toNat
      ∧ (s.chunk.toNat < s.rem.toNat → t.st = .reloadNext) ∧ (s.chunk.toNat = s.rem.toNat → t.st = .done)
      ∧ t.chunk = s.chunk ∧ t.done = s.done ∧ t.err = s.err ∧ t.rsp = s.rsp
      ∧ KeepsOtherChannels s.par.chK s t ∧ KeepsPulses s t ∧ KeepsStore s t ∧ KeepsMemory s t
      ∧ KeepsPlatform s t

/-- RELOAD writes min(REM, CAP) into CNT[k] and CHUNK, raises one chunk_continue pulse and returns to Active. Rests on
R205. Model's choice: log entry 9. -/
def Obligations.ReloadWritesTheLengthRegister : Prop :=
  (∀ (s t : State), exec .reload s = .next t → s.st = .reloadNext)
  ∧ ∀ s : State, s.par.chK.toNat < s.nCh → s.st = .reloadNext →
    ∃ t n, exec .reload s = .next t ∧ n.toNat = min s.rem.toNat s.par.cap.toNat
      ∧ t.kChan = { s.kChan with cnt := n } ∧ t.chunk = n ∧ t.st = .active
      ∧ t.pulses = s.pulses ++ [.chunkContinue]
      ∧ t.rem = s.rem ∧ t.done = s.done ∧ t.err = s.err ∧ t.rsp = s.rsp
      ∧ KeepsOtherChannels s.par.chK s t ∧ KeepsStore s t ∧ KeepsMemory s t ∧ KeepsPlatform s t

/-- FINISH disables CH_K, zeroes CHUNK, sets DONE, raises one chunk_done pulse and returns to Idle. Rests on R206.
Model's choice: log entry 9. -/
def Obligations.FinishSignalsCompletion : Prop :=
  (∀ (s t : State), exec .finish s = .next t → s.st = .done)
  ∧ ∀ s : State, s.par.chK.toNat < s.nCh → s.st = .done →
    ∃ t, exec .finish s = .next t ∧ t.kChan = { s.kChan with en := false }
      ∧ t.chunk = 0#16 ∧ t.done = true ∧ irqChunkDone t = true ∧ t.st = .idle
      ∧ t.pulses = s.pulses ++ [.chunkDone] ∧ t.rem = s.rem ∧ t.err = s.err ∧ t.rsp = s.rsp
      ∧ KeepsOtherChannels s.par.chK s t ∧ KeepsStore s t ∧ KeepsMemory s t ∧ KeepsPlatform s t

/-- BUSERR in Active or ReloadNext sets ERR, disables CH_K and returns to Idle; in Idle and Done it does nothing.
Rests on R207. Model's choice: log entry 9. -/
def Obligations.BuserrDropsTheFrame : Prop :=
  ∀ s : State, s.par.chK.toNat < s.nCh →
    (s.st = .active ∨ s.st = .reloadNext →
      ∃ t, exec .buserr s = .next t ∧ t.kChan = { s.kChan with en := false }
        ∧ t.err = true ∧ t.rem = 0#32 ∧ t.chunk = 0#16 ∧ t.st = .idle ∧ t.done = s.done ∧ t.rsp = s.rsp
        ∧ KeepsOtherChannels s.par.chK s t ∧ KeepsPulses s t ∧ KeepsStore s t ∧ KeepsMemory s t
        ∧ KeepsPlatform s t)
    ∧ (s.st = .idle ∨ s.st = .done → exec .buserr s = .next s)

/-- CKCANCEL zeroes REM and CHUNK, goes to Idle, and disables CH_K only if the FSM was not Idle. Rests on R209. -/
def Obligations.CkcancelResetsTheCursor : Prop :=
  ∀ s : State, s.par.chK.toNat < s.nCh →
    ∃ t, exec .ckcancel s = .next t ∧ Accepted t 0#64 ∧ t.st = .idle ∧ t.rem = 0#32 ∧ t.chunk = 0#16
      ∧ (s.st ≠ .idle → t.kChan = { s.kChan with en := false }) ∧ (s.st = .idle → t.kChan = s.kChan)
      ∧ t.done = s.done ∧ t.err = s.err
      ∧ KeepsOtherChannels s.par.chK s t ∧ KeepsPulses s t ∧ KeepsStore s t ∧ KeepsMemory s t
      ∧ KeepsPlatform s t

/-- CKSTAT answers REM, ST, DONE, ERR and CHUNK in their bits and changes nothing else. Rests on R210, R34. -/
def Obligations.CkstatAnswersTheFsm : Prop :=
  ∀ s : State, ∃ d : BitVec 64, exec .ckstat s = .next { s with rsp := some ⟨0#4, d⟩ }
    ∧ d.extractLsb' 0 32 = s.rem ∧ d.getLsbD 34 = s.done ∧ d.getLsbD 35 = s.err
    ∧ d.extractLsb' 36 16 = s.chunk ∧ d.extractLsb' 52 12 = 0#12
    ∧ (s.st = .idle → d.extractLsb' 32 2 = 0#2) ∧ (s.st = .active → d.extractLsb' 32 2 = 1#2)
    ∧ (s.st = .reloadNext → d.extractLsb' 32 2 = 2#2) ∧ (s.st = .done → d.extractLsb' 32 2 = 3#2)

/-- The label of an FSM step that is not enabled is refused by name: the schedule is ill-formed (log entry 13). Rests
on spec/70_reset_and_hazards.md R295, spec/30_encoding.md R98. -/
def Obligations.FsmStepsNotEnabledAreRefused : Prop :=
  ∀ s : State,
    (s.st ≠ .active ∨ s.kChan.tcf = false → exec .service s = .refused (.stepNotEnabled 0x9000#16))
    ∧ (s.st ≠ .reloadNext → exec .reload s = .refused (.stepNotEnabled 0x9100#16))
    ∧ (s.st ≠ .done → exec .finish s = .refused (.stepNotEnabled 0x9200#16))
    ∧ (∀ ch : ChIx, ¬ ch.toNat < s.nCh → exec (.req ch) s = .refused (.noSuchWire ch))

/-- Reload events and delivered bytes, done plus to do, stay constant through a chunked transfer, and so does its end
address. Rests on R211, R39, R204, R205. Model's choice: log entry 20. -/
def Obligations.ChunkedTransferConservesItsTotals : Prop :=
  ∀ (s t : State) (i : Instr), Inv s → exec i s = .next t → s.st ≠ .idle → t.st ≠ .idle →
    continuePulses t + reloadsLeft t = continuePulses s + reloadsLeft s
      ∧ t.kChan.out.length + bytesLeft t = s.kChan.out.length + bytesLeft s
      ∧ chunkEnd t % 2 ^ 32 = chunkEnd s % 2 ^ 32 ∧ chunkEnd s ≤ 2 ^ 32

/-- A chunked transfer of L bytes issues ceil(L/CAP) - 1 reloads, delivers the L bytes in order and ends in Idle with
DONE. Rests on R211. -/
def Obligations.CompleteChunkedRun : Prop :=
  ∀ (s : State) (len off : BitVec 32) (rest : List Input), Inv s → s.st = .idle → s.kChan.en = false →
    s.kChan.av = true → s.kChan.cfg.width = 0#2 → s.kChan.cfg.circ = false → s.kChan.tcf = false →
    len ≠ 0#32 → s.kChan.src.toNat + off.toNat + len.toNat ≤ 2 ^ 32 →
    (∀ i < len.toNat, mapped s.par (s.kChan.src.toNat + off.toNat + i) = true
      ∧ s.kChan.dst.toNat ≠ s.kChan.src.toNat + off.toNat + i) →
    mapped s.par s.kChan.dst.toNat = true →
    s.sched = chunkInputs s.par.chK s.par.cap.toNat len.toNat len.toNat ++ rest →
    ∃ t n u, exec (.ckstart len off) s = .next t ∧ run n t = .next u
      ∧ u.st = .idle ∧ u.rem = 0#32 ∧ u.done = true ∧ u.err = false ∧ u.kChan.en = false ∧ u.sched = rest
      ∧ continuePulses u = continuePulses s + (ceilDiv len.toNat s.par.cap.toNat - 1)
      ∧ donePulses u = donePulses s + 1
      ∧ u.kChan.out = s.kChan.out ++ (List.range len.toNat).map fun i =>
          ⟨s.kChan.dst, 1, (s.byte (s.kChan.src.toNat + off.toNat + i)).setWidth 16⟩

/-! ### Rules of the whole machine -/

/-- A command answered with a non-zero status has data 0, a code from 1 to 10, and no other effect. Rests on R13,
R243, R93. -/
def Obligations.RejectionsChangeNothing : Prop :=
  ∀ (i : Instr) (s : State), i.isCommand = true → ∃ t, exec i s = .next t
    ∧ ∀ r, t.rsp = some r → r.status ≠ 0#4 →
        t = rejectedState s r.status ∧ r.data = 0#64 ∧ 1 ≤ r.status.toNat ∧ r.status.toNat ≤ 10

/-- No operation of the block faults, and only labels of steps that are not there are refused. Rests on R13, R255,
R240. -/
def Obligations.ExecNeverFaults : Prop :=
  ∀ (i : Instr) (s : State), (∀ f, exec i s ≠ .fault f)
    ∧ ∀ r, exec i s = .refused r →
        (∃ ch, i = .req ch ∧ ¬ ch.toNat < s.nCh)
          ∨ (i = .service ∧ ¬ (s.st = .active ∧ s.kChan.tcf = true))
          ∨ (i = .reload ∧ s.st ≠ .reloadNext) ∨ (i = .finish ∧ s.st ≠ .done)

/-- CFG and CV change only by CFG, AV by ARM and CFG, SRC, DST and CNT_RELOAD only by ARM, and all by RST. Rests on
R21, R22, R23, R24, R25, R28, R43. -/
def Obligations.DescriptorRegistersHaveTheirWriters : Prop :=
  ∀ (i : Instr) (s t : State) (ch : ChIx), exec i s = .next t → i ≠ .rst →
    let c := s.chan ch
    let d := t.chan ch
    (d.cfg ≠ c.cfg ∨ d.cv ≠ c.cv → ∃ f, i = .cfg ch f)
    ∧ (d.src ≠ c.src ∨ d.dst ≠ c.dst ∨ d.cntReload ≠ c.cntReload → ∃ src dst n, i = .arm ch src dst n)
    ∧ (d.av ≠ c.av → (∃ src dst n, i = .arm ch src dst n ∧ d.av = true)
        ∨ ∃ f, i = .cfg ch f ∧ f.width ≠ c.cfg.width ∧ d.av = false)

/-- CUR, CNT, EN and TCF of a channel change only by the operations R43 lists. Rests on R26, R27, R29, R30, R43. -/
def Obligations.WorkingRegistersHaveTheirWriters : Prop :=
  ∀ (i : Instr) (s t : State) (ch : ChIx), exec i s = .next t → i ≠ .rst →
    let c := s.chan ch
    let d := t.chan ch
    let onK := ch = s.par.chK
    (d.cur ≠ c.cur → (∃ src dst n, i = .arm ch src dst n) ∨ i = .req ch ∨ (onK ∧ ∃ l o, i = .ckstart l o))
    ∧ (d.cnt ≠ c.cnt → (∃ src dst n, i = .arm ch src dst n) ∨ i = .req ch
        ∨ (∃ f, i = .cfg ch f ∧ f.width ≠ c.cfg.width ∧ d.cnt = 0#16)
        ∨ (onK ∧ ((∃ l o, i = .ckstart l o) ∨ i = .reload)))
    ∧ (d.en ≠ c.en → (d.en = true ∧ (i = .en ch ∨ (onK ∧ ∃ l o, i = .ckstart l o)))
        ∨ (d.en = false ∧ (i = .dis ch ∨ (onK ∧ (i = .ckcancel ∨ i = .finish ∨ i = .buserr)))))
    ∧ (d.tcf ≠ c.tcf → (d.tcf = true ∧ i = .req ch ∧ c.cnt = 1#16 ∧ c.cfg.circ = false)
        ∨ (d.tcf = false ∧ (i = .clrtc ch ∨ (onK ∧ i = .service))))

/-- REM, CHUNK, DONE and ERR change only by the operations R43 lists. Rests on R35, R36, R37, R38, R40, R43. -/
def Obligations.FsmRegistersHaveTheirWriters : Prop :=
  ∀ (i : Instr) (s t : State), exec i s = .next t → i ≠ .rst →
    let start := ∃ l o, i = .ckstart l o
    (t.rem ≠ s.rem → start ∨ i = .service ∨ i = .buserr ∨ i = .ckcancel)
    ∧ (t.chunk ≠ s.chunk → start ∨ i = .reload ∨ i = .finish ∨ i = .buserr ∨ i = .ckcancel)
    ∧ (t.done ≠ s.done → (t.done = true ∧ i = .finish) ∨ (t.done = false ∧ start))
    ∧ (t.err ≠ s.err → (t.err = true ∧ i = .buserr ∧ (s.st = .active ∨ s.st = .reloadNext))
        ∨ (t.err = false ∧ start))
    ∧ (t.pulses ≠ s.pulses → (i = .reload ∧ t.pulses = s.pulses ++ [.chunkContinue])
        ∨ (i = .finish ∧ t.pulses = s.pulses ++ [.chunkDone]))

/-- ST changes only along the rows of the transition summary. Rests on R216. -/
def Obligations.FsmTakesOnlyTheListedTransitions : Prop :=
  ∀ (i : Instr) (s t : State), exec i s = .next t → t.st ≠ s.st →
    (s.st = .idle ∧ (∃ l o, i = .ckstart l o) ∧ t.st = .active)
    ∨ (s.st = .active ∧ i = .service ∧
        ((s.rem - s.chunk.setWidth 32 ≠ 0#32 ∧ t.st = .reloadNext) ∨ (s.rem - s.chunk.setWidth 32 = 0#32 ∧ t.st = .done)))
    ∨ (s.st = .reloadNext ∧ i = .reload ∧ t.st = .active)
    ∨ (s.st = .done ∧ i = .finish ∧ t.st = .idle)
    ∨ ((s.st = .active ∨ s.st = .reloadNext) ∧ i = .buserr ∧ t.st = .idle ∧ t.err = true)
    ∨ (i = .dis s.par.chK ∧ t.st = .idle ∧ t.rem = s.rem)
    ∨ (i = .ckcancel ∧ t.st = .idle ∧ t.rem = 0#32)
    ∨ (i = .rst ∧ t.st = .idle)

/-- While the FSM is not Idle no host command but DIS CH_K and CKCANCEL changes CNT[k], REM, CHUNK or ST. Rests on
R215, R43, R285. -/
def Obligations.SharedRegistersHaveOneWriter : Prop :=
  ∀ (s : State), Inv s → s.st ≠ .idle →
    (∀ (i : Instr) (t : State), i.isCommand = true → i ≠ .dis s.par.chK → i ≠ .ckcancel → exec i s = .next t →
      t.st = s.st ∧ t.rem = s.rem ∧ t.chunk = s.chunk ∧ t.kChan = s.kChan)
    ∧ ∀ (f : CfgFields) (src dst : Addr) (n l o : BitVec 32),
        ∀ i ∈ [Instr.cfg s.par.chK f, .arm s.par.chK src dst n, .clrtc s.par.chK, .ckstart l o],
          exec i s = .next (rejectedState s 3#4)

/-- A disabled channel stays disabled and delivers nothing until EN, or CKSTART on CH_K. Rests on R71, R154, R180. -/
def Obligations.DisabledChannelMovesNothing : Prop :=
  ∀ (i : Instr) (s t : State) (ch : ChIx), exec i s = .next t → (s.chan ch).en = false → i ≠ .en ch →
    (ch = s.par.chK → ∀ l o, i ≠ .ckstart l o) →
    (t.chan ch).en = false ∧ ((t.chan ch).out = (s.chan ch).out ∨ (i = .rst ∧ (t.chan ch).out = []))

/-- exec writes memory only for a served REQ, at most its two destination bytes; store commands write in later steps
(log entry 8). Rests on R60, R65, R76. -/
def Obligations.OnlyStoresAndMovesReachMemory : Prop :=
  ∀ (i : Instr) (s t : State), Memory.wf s.mem → exec i s = .next t →
    ((∀ ch, i ≠ .req ch) → ∀ a, t.byte a = s.byte a)
    ∧ ∀ ch, i = .req ch → ∀ a,
        (a < (s.chan ch).dst.toNat ∨ (s.chan ch).dst.toNat + elemSize (s.chan ch).cfg ≤ a) → t.byte a = s.byte a

/-- Every step keeps the channel invariants I1 to I5, the chunk invariants K1 to K5, and memory in canonical form.
Rests on R33, R39, R36. -/
def Obligations.EveryStepKeepsTheInvariant : Prop :=
  ∀ s t : State, Inv s → step s = .next t → Inv t

/-- The machine after reset has the invariant. Rests on R33, R39, R45. Model's choice: log entries 1, 2. -/
def Obligations.ResetMeetsTheInvariant : Prop :=
  Inv State.reset

/-- No step changes the parameters of the instance or the number of channels. Rests on R5, R44. Model's choice: log
entry 1. -/
def Obligations.StepKeepsTheInstance : Prop :=
  ∀ s t : State, step s = .next t → t.par = s.par ∧ t.nCh = s.nCh
end

