-- ==== Sys2Proof/Laws/Decode.lean ====
section
/-! SUPPORT. The fields of a packed word, and a word packed from its fields. -/

namespace Sys2Proof

@[simp] theorem opField_packCmd (op : Byte) (ch : ChIx) (aux : BitVec 16) (a b c : BitVec 32) :
    opField (packCmd op ch aux a b c) = op := by
  apply BitVec.eq_of_getLsbD_eq; intro i hi
  simp only [opField, packCmd, BitVec.getLsbD_extractLsb', BitVec.getLsbD_append, hi]
  grind

@[simp] theorem chField_packCmd (op : Byte) (ch : ChIx) (aux : BitVec 16) (a b c : BitVec 32) :
    chField (packCmd op ch aux a b c) = ch := by
  apply BitVec.eq_of_getLsbD_eq; intro i hi
  simp only [chField, packCmd, BitVec.getLsbD_extractLsb', BitVec.getLsbD_append, hi]
  grind

@[simp] theorem auxField_packCmd (op : Byte) (ch : ChIx) (aux : BitVec 16) (a b c : BitVec 32) :
    auxField (packCmd op ch aux a b c) = aux := by
  apply BitVec.eq_of_getLsbD_eq; intro i hi
  simp only [auxField, packCmd, BitVec.getLsbD_extractLsb', BitVec.getLsbD_append, hi]
  grind

@[simp] theorem aField_packCmd (op : Byte) (ch : ChIx) (aux : BitVec 16) (a b c : BitVec 32) :
    aField (packCmd op ch aux a b c) = a := by
  apply BitVec.eq_of_getLsbD_eq; intro i hi
  simp only [aField, packCmd, BitVec.getLsbD_extractLsb', BitVec.getLsbD_append, hi]
  grind

@[simp] theorem bField_packCmd (op : Byte) (ch : ChIx) (aux : BitVec 16) (a b c : BitVec 32) :
    bField (packCmd op ch aux a b c) = b := by
  apply BitVec.eq_of_getLsbD_eq; intro i hi
  simp only [bField, packCmd, BitVec.getLsbD_extractLsb', BitVec.getLsbD_append, hi]
  grind

@[simp] theorem cField_packCmd (op : Byte) (ch : ChIx) (aux : BitVec 16) (a b c : BitVec 32) :
    cField (packCmd op ch aux a b c) = c := by
  apply BitVec.eq_of_getLsbD_eq; intro i hi
  simp only [cField, packCmd, BitVec.getLsbD_extractLsb', BitVec.getLsbD_append, hi]
  grind

/-- A command word is its six fields, packed (R90). -/
theorem packCmd_fields (w : CmdWord) :
    packCmd (opField w) (chField w) (auxField w) (aField w) (bField w) (cField w) = w := by
  apply BitVec.eq_of_getLsbD_eq; intro i hi
  simp only [opField, chField, auxField, aField, bField, cField, packCmd, BitVec.getLsbD_extractLsb',
    BitVec.getLsbD_append]
  grind

@[simp] theorem kind_packLabel (kind : Byte) (ch : ChIx) : (packLabel kind ch).extractLsb' 8 8 = kind := by
  apply BitVec.eq_of_getLsbD_eq; intro i hi
  simp only [packLabel, BitVec.getLsbD_extractLsb', BitVec.getLsbD_append, hi]
  grind

@[simp] theorem ch_packLabel (kind : Byte) (ch : ChIx) : (packLabel kind ch).extractLsb' 0 8 = ch := by
  apply BitVec.eq_of_getLsbD_eq; intro i hi
  simp only [packLabel, BitVec.getLsbD_extractLsb', BitVec.getLsbD_append, hi]
  grind

/-- A label word is its two fields, packed (R98). -/
theorem packLabel_fields (w : LabelWord) : packLabel (w.extractLsb' 8 8) (w.extractLsb' 0 8) = w := by
  apply BitVec.eq_of_getLsbD_eq; intro i hi
  simp only [packLabel, BitVec.getLsbD_extractLsb', BitVec.getLsbD_append]
  grind

/-- The CFG fields survive their 6-bit value (R95). -/
@[simp] theorem cfgOfBits_cfgToBits (f : CfgFields) : cfgOfBits (cfgToBits f) = f := by
  obtain ⟨circ, incDst, incSrc, dir, width⟩ := f
  revert circ incDst incSrc dir width; decide

@[simp] theorem cfgToBits_cfgOfBits (v : BitVec 6) : cfgToBits (cfgOfBits v) = v := by
  revert v; decide

end Sys2Proof
end

