-- ==== Sys2Proof/Laws/State.lean ====
section
/-! SUPPORT. One lemma per field per update of the state, and what a channel or a byte reads as after each update. -/

namespace Sys2Proof.Machine

theorem addrSpace_eq : addrSpace = 4294967296 := rfl

/-! ### `State.setChan` -/

@[simp] theorem State.setChan_par (s : State) (ch : ChIx) (c : Channel) : (s.setChan ch c).par = s.par := rfl
@[simp] theorem State.setChan_chans (s : State) (ch : ChIx) (c : Channel) : (s.setChan ch c).chans = s.chans.set ch.toNat c := rfl
@[simp] theorem State.setChan_st (s : State) (ch : ChIx) (c : Channel) : (s.setChan ch c).st = s.st := rfl
@[simp] theorem State.setChan_rem (s : State) (ch : ChIx) (c : Channel) : (s.setChan ch c).rem = s.rem := rfl
@[simp] theorem State.setChan_chunk (s : State) (ch : ChIx) (c : Channel) : (s.setChan ch c).chunk = s.chunk := rfl
@[simp] theorem State.setChan_done (s : State) (ch : ChIx) (c : Channel) : (s.setChan ch c).done = s.done := rfl
@[simp] theorem State.setChan_err (s : State) (ch : ChIx) (c : Channel) : (s.setChan ch c).err = s.err := rfl
@[simp] theorem State.setChan_pulses (s : State) (ch : ChIx) (c : Channel) : (s.setChan ch c).pulses = s.pulses := rfl
@[simp] theorem State.setChan_rsp (s : State) (ch : ChIx) (c : Channel) : (s.setChan ch c).rsp = s.rsp := rfl
@[simp] theorem State.setChan_mem (s : State) (ch : ChIx) (c : Channel) : (s.setChan ch c).mem = s.mem := rfl
@[simp] theorem State.setChan_store (s : State) (ch : ChIx) (c : Channel) : (s.setChan ch c).store = s.store := rfl
@[simp] theorem State.setChan_sched (s : State) (ch : ChIx) (c : Channel) : (s.setChan ch c).sched = s.sched := rfl
@[simp] theorem State.setChan_hostData (s : State) (ch : ChIx) (c : Channel) : (s.setChan ch c).hostData = s.hostData := rfl
@[simp] theorem State.setChan_resets (s : State) (ch : ChIx) (c : Channel) : (s.setChan ch c).resets = s.resets := rfl

/-! ### `State.setK` -/

@[simp] theorem State.setK_par (s : State) (c : Channel) : (s.setK c).par = s.par := rfl
@[simp] theorem State.setK_chans (s : State) (c : Channel) : (s.setK c).chans = s.chans.set s.par.chK.toNat c := rfl
@[simp] theorem State.setK_st (s : State) (c : Channel) : (s.setK c).st = s.st := rfl
@[simp] theorem State.setK_rem (s : State) (c : Channel) : (s.setK c).rem = s.rem := rfl
@[simp] theorem State.setK_chunk (s : State) (c : Channel) : (s.setK c).chunk = s.chunk := rfl
@[simp] theorem State.setK_done (s : State) (c : Channel) : (s.setK c).done = s.done := rfl
@[simp] theorem State.setK_err (s : State) (c : Channel) : (s.setK c).err = s.err := rfl
@[simp] theorem State.setK_pulses (s : State) (c : Channel) : (s.setK c).pulses = s.pulses := rfl
@[simp] theorem State.setK_rsp (s : State) (c : Channel) : (s.setK c).rsp = s.rsp := rfl
@[simp] theorem State.setK_mem (s : State) (c : Channel) : (s.setK c).mem = s.mem := rfl
@[simp] theorem State.setK_store (s : State) (c : Channel) : (s.setK c).store = s.store := rfl
@[simp] theorem State.setK_sched (s : State) (c : Channel) : (s.setK c).sched = s.sched := rfl
@[simp] theorem State.setK_hostData (s : State) (c : Channel) : (s.setK c).hostData = s.hostData := rfl
@[simp] theorem State.setK_resets (s : State) (c : Channel) : (s.setK c).resets = s.resets := rfl

/-! ### `State.answer` -/

@[simp] theorem State.answer_par (s : State) (a : Status) (d : BitVec 64) : (s.answer a d).par = s.par := rfl
@[simp] theorem State.answer_chans (s : State) (a : Status) (d : BitVec 64) : (s.answer a d).chans = s.chans := rfl
@[simp] theorem State.answer_st (s : State) (a : Status) (d : BitVec 64) : (s.answer a d).st = s.st := rfl
@[simp] theorem State.answer_rem (s : State) (a : Status) (d : BitVec 64) : (s.answer a d).rem = s.rem := rfl
@[simp] theorem State.answer_chunk (s : State) (a : Status) (d : BitVec 64) : (s.answer a d).chunk = s.chunk := rfl
@[simp] theorem State.answer_done (s : State) (a : Status) (d : BitVec 64) : (s.answer a d).done = s.done := rfl
@[simp] theorem State.answer_err (s : State) (a : Status) (d : BitVec 64) : (s.answer a d).err = s.err := rfl
@[simp] theorem State.answer_pulses (s : State) (a : Status) (d : BitVec 64) : (s.answer a d).pulses = s.pulses := rfl
@[simp] theorem State.answer_rsp (s : State) (a : Status) (d : BitVec 64) : (s.answer a d).rsp = some ⟨statusCode a, d⟩ := rfl
@[simp] theorem State.answer_mem (s : State) (a : Status) (d : BitVec 64) : (s.answer a d).mem = s.mem := rfl
@[simp] theorem State.answer_store (s : State) (a : Status) (d : BitVec 64) : (s.answer a d).store = s.store := rfl
@[simp] theorem State.answer_sched (s : State) (a : Status) (d : BitVec 64) : (s.answer a d).sched = s.sched := rfl
@[simp] theorem State.answer_hostData (s : State) (a : Status) (d : BitVec 64) : (s.answer a d).hostData = s.hostData := rfl
@[simp] theorem State.answer_resets (s : State) (a : Status) (d : BitVec 64) : (s.answer a d).resets = s.resets := rfl

/-! ### `State.pulse` -/

@[simp] theorem State.pulse_par (s : State) (p : Pulse) : (s.pulse p).par = s.par := rfl
@[simp] theorem State.pulse_chans (s : State) (p : Pulse) : (s.pulse p).chans = s.chans := rfl
@[simp] theorem State.pulse_st (s : State) (p : Pulse) : (s.pulse p).st = s.st := rfl
@[simp] theorem State.pulse_rem (s : State) (p : Pulse) : (s.pulse p).rem = s.rem := rfl
@[simp] theorem State.pulse_chunk (s : State) (p : Pulse) : (s.pulse p).chunk = s.chunk := rfl
@[simp] theorem State.pulse_done (s : State) (p : Pulse) : (s.pulse p).done = s.done := rfl
@[simp] theorem State.pulse_err (s : State) (p : Pulse) : (s.pulse p).err = s.err := rfl
@[simp] theorem State.pulse_pulses (s : State) (p : Pulse) : (s.pulse p).pulses = s.pulses ++ [p] := rfl
@[simp] theorem State.pulse_rsp (s : State) (p : Pulse) : (s.pulse p).rsp = s.rsp := rfl
@[simp] theorem State.pulse_mem (s : State) (p : Pulse) : (s.pulse p).mem = s.mem := rfl
@[simp] theorem State.pulse_store (s : State) (p : Pulse) : (s.pulse p).store = s.store := rfl
@[simp] theorem State.pulse_sched (s : State) (p : Pulse) : (s.pulse p).sched = s.sched := rfl
@[simp] theorem State.pulse_hostData (s : State) (p : Pulse) : (s.pulse p).hostData = s.hostData := rfl
@[simp] theorem State.pulse_resets (s : State) (p : Pulse) : (s.pulse p).resets = s.resets := rfl

/-! ### `State.clearChunkFlags` -/

@[simp] theorem State.clearChunkFlags_par (s : State) : (s.clearChunkFlags).par = s.par := rfl
@[simp] theorem State.clearChunkFlags_chans (s : State) : (s.clearChunkFlags).chans = s.chans := rfl
@[simp] theorem State.clearChunkFlags_st (s : State) : (s.clearChunkFlags).st = s.st := rfl
@[simp] theorem State.clearChunkFlags_rem (s : State) : (s.clearChunkFlags).rem = s.rem := rfl
@[simp] theorem State.clearChunkFlags_chunk (s : State) : (s.clearChunkFlags).chunk = s.chunk := rfl
@[simp] theorem State.clearChunkFlags_done (s : State) : (s.clearChunkFlags).done = false := rfl
@[simp] theorem State.clearChunkFlags_err (s : State) : (s.clearChunkFlags).err = false := rfl
@[simp] theorem State.clearChunkFlags_pulses (s : State) : (s.clearChunkFlags).pulses = s.pulses := rfl
@[simp] theorem State.clearChunkFlags_rsp (s : State) : (s.clearChunkFlags).rsp = s.rsp := rfl
@[simp] theorem State.clearChunkFlags_mem (s : State) : (s.clearChunkFlags).mem = s.mem := rfl
@[simp] theorem State.clearChunkFlags_store (s : State) : (s.clearChunkFlags).store = s.store := rfl
@[simp] theorem State.clearChunkFlags_sched (s : State) : (s.clearChunkFlags).sched = s.sched := rfl
@[simp] theorem State.clearChunkFlags_hostData (s : State) : (s.clearChunkFlags).hostData = s.hostData := rfl
@[simp] theorem State.clearChunkFlags_resets (s : State) : (s.clearChunkFlags).resets = s.resets := rfl

/-! ### `State.raiseDone` -/

@[simp] theorem State.raiseDone_par (s : State) : (s.raiseDone).par = s.par := rfl
@[simp] theorem State.raiseDone_chans (s : State) : (s.raiseDone).chans = s.chans := rfl
@[simp] theorem State.raiseDone_st (s : State) : (s.raiseDone).st = s.st := rfl
@[simp] theorem State.raiseDone_rem (s : State) : (s.raiseDone).rem = s.rem := rfl
@[simp] theorem State.raiseDone_chunk (s : State) : (s.raiseDone).chunk = s.chunk := rfl
@[simp] theorem State.raiseDone_done (s : State) : (s.raiseDone).done = true := rfl
@[simp] theorem State.raiseDone_err (s : State) : (s.raiseDone).err = s.err := rfl
@[simp] theorem State.raiseDone_pulses (s : State) : (s.raiseDone).pulses = s.pulses := rfl
@[simp] theorem State.raiseDone_rsp (s : State) : (s.raiseDone).rsp = s.rsp := rfl
@[simp] theorem State.raiseDone_mem (s : State) : (s.raiseDone).mem = s.mem := rfl
@[simp] theorem State.raiseDone_store (s : State) : (s.raiseDone).store = s.store := rfl
@[simp] theorem State.raiseDone_sched (s : State) : (s.raiseDone).sched = s.sched := rfl
@[simp] theorem State.raiseDone_hostData (s : State) : (s.raiseDone).hostData = s.hostData := rfl
@[simp] theorem State.raiseDone_resets (s : State) : (s.raiseDone).resets = s.resets := rfl

/-! ### `State.raiseErr` -/

@[simp] theorem State.raiseErr_par (s : State) : (s.raiseErr).par = s.par := rfl
@[simp] theorem State.raiseErr_chans (s : State) : (s.raiseErr).chans = s.chans := rfl
@[simp] theorem State.raiseErr_st (s : State) : (s.raiseErr).st = s.st := rfl
@[simp] theorem State.raiseErr_rem (s : State) : (s.raiseErr).rem = s.rem := rfl
@[simp] theorem State.raiseErr_chunk (s : State) : (s.raiseErr).chunk = s.chunk := rfl
@[simp] theorem State.raiseErr_done (s : State) : (s.raiseErr).done = s.done := rfl
@[simp] theorem State.raiseErr_err (s : State) : (s.raiseErr).err = true := rfl
@[simp] theorem State.raiseErr_pulses (s : State) : (s.raiseErr).pulses = s.pulses := rfl
@[simp] theorem State.raiseErr_rsp (s : State) : (s.raiseErr).rsp = s.rsp := rfl
@[simp] theorem State.raiseErr_mem (s : State) : (s.raiseErr).mem = s.mem := rfl
@[simp] theorem State.raiseErr_store (s : State) : (s.raiseErr).store = s.store := rfl
@[simp] theorem State.raiseErr_sched (s : State) : (s.raiseErr).sched = s.sched := rfl
@[simp] theorem State.raiseErr_hostData (s : State) : (s.raiseErr).hostData = s.hostData := rfl
@[simp] theorem State.raiseErr_resets (s : State) : (s.raiseErr).resets = s.resets := rfl

/-! ### `State.popInput` -/

@[simp] theorem State.popInput_par (s : State) : (s.popInput).par = s.par := rfl
@[simp] theorem State.popInput_chans (s : State) : (s.popInput).chans = s.chans := rfl
@[simp] theorem State.popInput_st (s : State) : (s.popInput).st = s.st := rfl
@[simp] theorem State.popInput_rem (s : State) : (s.popInput).rem = s.rem := rfl
@[simp] theorem State.popInput_chunk (s : State) : (s.popInput).chunk = s.chunk := rfl
@[simp] theorem State.popInput_done (s : State) : (s.popInput).done = s.done := rfl
@[simp] theorem State.popInput_err (s : State) : (s.popInput).err = s.err := rfl
@[simp] theorem State.popInput_pulses (s : State) : (s.popInput).pulses = s.pulses := rfl
@[simp] theorem State.popInput_rsp (s : State) : (s.popInput).rsp = s.rsp := rfl
@[simp] theorem State.popInput_mem (s : State) : (s.popInput).mem = s.mem := rfl
@[simp] theorem State.popInput_store (s : State) : (s.popInput).store = s.store := rfl
@[simp] theorem State.popInput_sched (s : State) : (s.popInput).sched = s.sched.tail := rfl
@[simp] theorem State.popInput_hostData (s : State) : (s.popInput).hostData = s.hostData := rfl
@[simp] theorem State.popInput_resets (s : State) : (s.popInput).resets = s.resets := rfl

/-! ### `State.forceIdle` -/

@[simp] theorem State.forceIdle_par (s : State) (ch : ChIx) : (s.forceIdle ch).par = s.par := by
  unfold State.forceIdle; split <;> rfl
@[simp] theorem State.forceIdle_chans (s : State) (ch : ChIx) : (s.forceIdle ch).chans = s.chans := by
  unfold State.forceIdle; split <;> rfl
@[simp] theorem State.forceIdle_rem (s : State) (ch : ChIx) : (s.forceIdle ch).rem = s.rem := by
  unfold State.forceIdle; split <;> rfl
@[simp] theorem State.forceIdle_chunk (s : State) (ch : ChIx) : (s.forceIdle ch).chunk = s.chunk := by
  unfold State.forceIdle; split <;> rfl
@[simp] theorem State.forceIdle_done (s : State) (ch : ChIx) : (s.forceIdle ch).done = s.done := by
  unfold State.forceIdle; split <;> rfl
@[simp] theorem State.forceIdle_err (s : State) (ch : ChIx) : (s.forceIdle ch).err = s.err := by
  unfold State.forceIdle; split <;> rfl
@[simp] theorem State.forceIdle_pulses (s : State) (ch : ChIx) : (s.forceIdle ch).pulses = s.pulses := by
  unfold State.forceIdle; split <;> rfl
@[simp] theorem State.forceIdle_rsp (s : State) (ch : ChIx) : (s.forceIdle ch).rsp = s.rsp := by
  unfold State.forceIdle; split <;> rfl
@[simp] theorem State.forceIdle_mem (s : State) (ch : ChIx) : (s.forceIdle ch).mem = s.mem := by
  unfold State.forceIdle; split <;> rfl
@[simp] theorem State.forceIdle_store (s : State) (ch : ChIx) : (s.forceIdle ch).store = s.store := by
  unfold State.forceIdle; split <;> rfl
@[simp] theorem State.forceIdle_sched (s : State) (ch : ChIx) : (s.forceIdle ch).sched = s.sched := by
  unfold State.forceIdle; split <;> rfl
@[simp] theorem State.forceIdle_hostData (s : State) (ch : ChIx) : (s.forceIdle ch).hostData = s.hostData := by
  unfold State.forceIdle; split <;> rfl
@[simp] theorem State.forceIdle_resets (s : State) (ch : ChIx) : (s.forceIdle ch).resets = s.resets := by
  unfold State.forceIdle; split <;> rfl

/-! ### `State.writeByte` -/

@[simp] theorem State.writeByte_par (s : State) (a : Nat) (v : Byte) : (s.writeByte a v).par = s.par := by
  unfold State.writeByte; split <;> rfl
@[simp] theorem State.writeByte_chans (s : State) (a : Nat) (v : Byte) : (s.writeByte a v).chans = s.chans := by
  unfold State.writeByte; split <;> rfl
@[simp] theorem State.writeByte_st (s : State) (a : Nat) (v : Byte) : (s.writeByte a v).st = s.st := by
  unfold State.writeByte; split <;> rfl
@[simp] theorem State.writeByte_rem (s : State) (a : Nat) (v : Byte) : (s.writeByte a v).rem = s.rem := by
  unfold State.writeByte; split <;> rfl
@[simp] theorem State.writeByte_chunk (s : State) (a : Nat) (v : Byte) : (s.writeByte a v).chunk = s.chunk := by
  unfold State.writeByte; split <;> rfl
@[simp] theorem State.writeByte_done (s : State) (a : Nat) (v : Byte) : (s.writeByte a v).done = s.done := by
  unfold State.writeByte; split <;> rfl
@[simp] theorem State.writeByte_err (s : State) (a : Nat) (v : Byte) : (s.writeByte a v).err = s.err := by
  unfold State.writeByte; split <;> rfl
@[simp] theorem State.writeByte_pulses (s : State) (a : Nat) (v : Byte) : (s.writeByte a v).pulses = s.pulses := by
  unfold State.writeByte; split <;> rfl
@[simp] theorem State.writeByte_rsp (s : State) (a : Nat) (v : Byte) : (s.writeByte a v).rsp = s.rsp := by
  unfold State.writeByte; split <;> rfl
@[simp] theorem State.writeByte_store (s : State) (a : Nat) (v : Byte) : (s.writeByte a v).store = s.store := by
  unfold State.writeByte; split <;> rfl
@[simp] theorem State.writeByte_sched (s : State) (a : Nat) (v : Byte) : (s.writeByte a v).sched = s.sched := by
  unfold State.writeByte; split <;> rfl
@[simp] theorem State.writeByte_hostData (s : State) (a : Nat) (v : Byte) : (s.writeByte a v).hostData = s.hostData := by
  unfold State.writeByte; split <;> rfl
@[simp] theorem State.writeByte_resets (s : State) (a : Nat) (v : Byte) : (s.writeByte a v).resets = s.resets := by
  unfold State.writeByte; split <;> rfl

/-! ### `memWrite` -/

@[simp] theorem memWrite_par (s : State) (a n : Nat) (v : BitVec 16) : (memWrite s a n v).par = s.par := by
  unfold memWrite; split <;> simp
@[simp] theorem memWrite_chans (s : State) (a n : Nat) (v : BitVec 16) : (memWrite s a n v).chans = s.chans := by
  unfold memWrite; split <;> simp
@[simp] theorem memWrite_st (s : State) (a n : Nat) (v : BitVec 16) : (memWrite s a n v).st = s.st := by
  unfold memWrite; split <;> simp
@[simp] theorem memWrite_rem (s : State) (a n : Nat) (v : BitVec 16) : (memWrite s a n v).rem = s.rem := by
  unfold memWrite; split <;> simp
@[simp] theorem memWrite_chunk (s : State) (a n : Nat) (v : BitVec 16) : (memWrite s a n v).chunk = s.chunk := by
  unfold memWrite; split <;> simp
@[simp] theorem memWrite_done (s : State) (a n : Nat) (v : BitVec 16) : (memWrite s a n v).done = s.done := by
  unfold memWrite; split <;> simp
@[simp] theorem memWrite_err (s : State) (a n : Nat) (v : BitVec 16) : (memWrite s a n v).err = s.err := by
  unfold memWrite; split <;> simp
@[simp] theorem memWrite_pulses (s : State) (a n : Nat) (v : BitVec 16) : (memWrite s a n v).pulses = s.pulses := by
  unfold memWrite; split <;> simp
@[simp] theorem memWrite_rsp (s : State) (a n : Nat) (v : BitVec 16) : (memWrite s a n v).rsp = s.rsp := by
  unfold memWrite; split <;> simp
@[simp] theorem memWrite_store (s : State) (a n : Nat) (v : BitVec 16) : (memWrite s a n v).store = s.store := by
  unfold memWrite; split <;> simp
@[simp] theorem memWrite_sched (s : State) (a n : Nat) (v : BitVec 16) : (memWrite s a n v).sched = s.sched := by
  unfold memWrite; split <;> simp
@[simp] theorem memWrite_hostData (s : State) (a n : Nat) (v : BitVec 16) : (memWrite s a n v).hostData = s.hostData := by
  unfold memWrite; split <;> simp
@[simp] theorem memWrite_resets (s : State) (a n : Nat) (v : BitVec 16) : (memWrite s a n v).resets = s.resets := by
  unfold memWrite; split <;> simp

/-! ### Channels -/

@[simp] theorem State.setChan_nCh (s : State) (ch : ChIx) (c : Channel) : (s.setChan ch c).nCh = s.nCh := by
  simp [State.nCh]

@[simp] theorem State.setK_nCh (s : State) (c : Channel) : (s.setK c).nCh = s.nCh := by simp [State.nCh]

theorem State.nCh_of_chans {s t : State} (h : t.chans = s.chans) : t.nCh = s.nCh := by simp [State.nCh, h]

theorem State.chan_of_chans {s t : State} (h : t.chans = s.chans) (j : ChIx) : t.chan j = s.chan j := by
  simp [State.chan, h]

/-- A channel that exists reads as what was last stored to it. -/
theorem State.chan_setChan_self (s : State) (ch : ChIx) (c : Channel) (h : ch.toNat < s.nCh) :
    (s.setChan ch c).chan ch = c := by
  simp [State.chan, State.nCh] at *; simp [h]

/-- Storing to one channel leaves every other as it was. -/
theorem State.chan_setChan_ne (s : State) {ch j : ChIx} (c : Channel) (h : j ≠ ch) :
    (s.setChan ch c).chan j = s.chan j := by
  have : ch.toNat ≠ j.toNat := fun e => h (BitVec.eq_of_toNat_eq e.symm)
  simp [State.chan, List.getD_eq_getElem?_getD, List.getElem?_set_ne this]

/-- What a channel reads as after a store to a channel. -/
theorem State.chan_setChan (s : State) (ch j : ChIx) (c : Channel) :
    (s.setChan ch c).chan j = if j = ch ∧ ch.toNat < s.nCh then c else s.chan j := by
  by_cases h : j = ch
  · subst h
    by_cases hl : j.toNat < s.nCh
    · simp [hl, State.chan_setChan_self]
    · simp only [hl, and_false, if_false]
      simp only [State.nCh] at hl
      simp [State.chan, State.setChan, List.set_eq_of_length_le (Nat.le_of_not_lt hl)]
  · simp [h, State.chan_setChan_ne s c h]

theorem State.chan_setK (s : State) (j : ChIx) (c : Channel) :
    (s.setK c).chan j = if j = s.par.chK ∧ s.par.chK.toNat < s.nCh then c else s.chan j :=
  State.chan_setChan s s.par.chK j c

theorem State.kChan_setK (s : State) (c : Channel) (h : s.par.chK.toNat < s.nCh) : (s.setK c).kChan = c :=
  State.chan_setChan_self s s.par.chK c h

/-- Every channel after a store to one is the stored one or was there before. -/
theorem State.mem_setChan {s : State} {ch : ChIx} {c d : Channel} (h : d ∈ (s.setChan ch c).chans) :
    d = c ∨ d ∈ s.chans := by
  rcases List.mem_or_eq_of_mem_set h with h | h
  · exact .inr h
  · exact .inl h

/-- A channel that exists is in the list of channels. -/
theorem State.chan_mem {s : State} {ch : ChIx} (h : ch.toNat < s.nCh) : s.chan ch ∈ s.chans := by
  simp only [State.chan, State.nCh] at *
  rw [List.getD_eq_getElem _ _ h]; exact List.getElem_mem h

/-! ### Bytes -/

theorem State.byte_of_mem {s t : State} (h : t.mem = s.mem) (a : Nat) : t.byte a = s.byte a := by
  simp [State.byte, h]

end Sys2Proof.Machine
end

