-- ==== Sys2Proof/Laws/Memory.lean ====
section
/-! SUPPORT. The laws of memory: every write keeps the canonical form, a read after a write to the same address gives
the value written, and a write leaves every other address alone. -/

namespace Sys2Proof.Machine

theorem Memory.wf_nil : Memory.wf [] := by simp [Memory.wf]

theorem Memory.wf_tail {c : Host.Cell} {m : Memory} (h : Memory.wf (c :: m)) : Memory.wf m :=
  ⟨(List.pairwise_cons.1 h.1).2, fun d hd => h.2 d (List.mem_cons_of_mem _ hd)⟩

theorem Memory.wf_head_lt {c d : Host.Cell} {m : Memory} (h : Memory.wf (c :: m)) (hd : d ∈ m) : c.1 < d.1 :=
  (List.pairwise_cons.1 h.1).1 d hd

theorem Memory.wf_cons {c : Host.Cell} {m : Memory} (hm : Memory.wf m) (hc : c.1 < addrSpace ∧ c.2 ≠ memDefault)
    (hlt : ∀ d ∈ m, c.1 < d.1) : Memory.wf (c :: m) :=
  ⟨List.pairwise_cons.2 ⟨hlt, hm.1⟩, fun d hd => (List.mem_cons.1 hd).elim (fun e => e ▸ hc) (hm.2 d)⟩

/-- What a write can put into the list: a cell that was there, or the cell written. -/
theorem Memory.mem_write {m : Memory} {a : Nat} {v : Byte} {c : Host.Cell} (h : c ∈ Memory.write m a v) :
    c ∈ m ∨ c = (a, v) ∧ v ≠ memDefault := by
  induction m with
  | nil => unfold Memory.write at h; split at h <;> simp_all
  | cons x m ih =>
    unfold Memory.write at h
    split_ifs at h <;> simp_all <;> tauto

/-- A write below 2^32 keeps the canonical form. -/
theorem Memory.write_wf {m : Memory} {a : Nat} {v : Byte} (h : Memory.wf m) (ha : a < addrSpace) :
    Memory.wf (Memory.write m a v) := by
  induction m with
  | nil =>
    unfold Memory.write
    split
    · exact h
    · exact Memory.wf_cons h ⟨ha, ‹_›⟩ (by simp)
  | cons x m ih =>
    obtain ⟨b, u⟩ := x
    have ht := Memory.wf_tail h
    have hlt : ∀ d ∈ m, b < d.1 := fun d hd => Memory.wf_head_lt h hd
    have hx := h.2 (b, u) (by simp)
    unfold Memory.write
    split_ifs with h1 h2 h3 h4
    · exact ht
    · exact Memory.wf_cons ht ⟨ha, h2⟩ (by subst h1; exact hlt)
    · exact h
    · exact Memory.wf_cons h ⟨ha, h4⟩ fun d hd => (List.mem_cons.1 hd).elim (fun e => e ▸ h3)
        fun e => h3.trans (hlt d e)
    · refine Memory.wf_cons (ih ht) hx fun d hd => ?_
      rcases Memory.mem_write hd with hd | ⟨rfl, -⟩
      · exact hlt d hd
      · simp only; omega

/-- Below the first listed address every byte reads as the default. -/
theorem Memory.read_of_lt {m : Memory} {a : Nat} (h : ∀ c ∈ m, a < c.1) : Memory.read m a = memDefault := by
  cases m with
  | nil => rfl
  | cons x m =>
    have hx := h x (by simp)
    obtain ⟨b, u⟩ := x
    simp only at hx
    simp [Memory.read, Nat.ne_of_lt hx, hx]

/-- A read after a write to the same address gives the value written. -/
theorem Memory.read_write_same {m : Memory} {a : Nat} {v : Byte} (h : Memory.wf m) :
    Memory.read (Memory.write m a v) a = v := by
  induction m with
  | nil => unfold Memory.write; split <;> simp_all [Memory.read]
  | cons x m ih =>
    obtain ⟨b, u⟩ := x
    have hlt : ∀ d ∈ m, b < d.1 := fun d hd => Memory.wf_head_lt h hd
    unfold Memory.write
    split_ifs with h1 h2 h3 h4
    · subst h1 h2; exact Memory.read_of_lt hlt
    · simp [Memory.read]
    · subst h4; simp [Memory.read, h1, h3]
    · simp [Memory.read]
    · simp [Memory.read, h1, h3, ih (Memory.wf_tail h)]

/-- A write leaves every other address alone. -/
theorem Memory.read_write_other {m : Memory} {a b : Nat} {v : Byte} (h : Memory.wf m) (hb : b ≠ a) :
    Memory.read (Memory.write m a v) b = Memory.read m b := by
  induction m with
  | nil => unfold Memory.write; split <;> simp [Memory.read, hb]
  | cons x m ih =>
    obtain ⟨c, u⟩ := x
    have hlt : ∀ d ∈ m, c < d.1 := fun d hd => Memory.wf_head_lt h hd
    have below : b < c → Memory.read m b = memDefault :=
      fun hbc => Memory.read_of_lt fun d hd => hbc.trans (hlt d hd)
    unfold Memory.write
    split_ifs with h1 h2 h3 h4
    · subst h1
      by_cases hba : b < a
      · simp [Memory.read, hb, hba, below hba]
      · simp [Memory.read, hb, hba]
    · subst h1; simp [Memory.read, hb]
    · rfl
    · by_cases hba : b < a
      · simp [Memory.read, hb, hba, show b ≠ c by omega, show b < c by omega]
      · simp [Memory.read, hb, hba]
    · simp [Memory.read, ih (Memory.wf_tail h)]

/-- One byte write keeps the canonical form. -/
theorem State.writeByte_wf {s : State} {a : Nat} {v : Byte} (h : Memory.wf s.mem) (ha : a < addrSpace) :
    Memory.wf (s.writeByte a v).mem := by
  unfold State.writeByte; split
  · exact Memory.write_wf h ha
  · exact h

/-- A byte written to a location that stores reads back. -/
theorem State.byte_writeByte_same {s : State} {a : Nat} {v : Byte} (h : Memory.wf s.mem) (hk : keeps s.par a = true) :
    (s.writeByte a v).byte a = v := by
  simp [State.writeByte, hk, State.byte, Memory.read_write_same h]

/-- One byte write leaves every other address alone. -/
theorem State.byte_writeByte_other {s : State} {a b : Nat} {v : Byte} (h : Memory.wf s.mem) (hb : b ≠ a) :
    (s.writeByte a v).byte b = s.byte b := by
  unfold State.writeByte; split
  · exact Memory.read_write_other h hb
  · rfl

/-- A byte write changes memory alone. -/
theorem State.writeByte_eq (s : State) (a : Nat) (v : Byte) :
    s.writeByte a v = { s with mem := (s.writeByte a v).mem } := by
  unfold State.writeByte; split <;> rfl

/-- `MemWrite` changes memory alone. -/
theorem memWrite_eq (s : State) (a n : Nat) (v : BitVec 16) :
    memWrite s a n v = { s with mem := (memWrite s a n v).mem } := by
  unfold memWrite; split
  · rw [State.writeByte_eq (s.writeByte a _), State.writeByte_eq s]
  · rw [State.writeByte_eq s]

/-- `MemWrite` keeps the canonical form where its bytes exist. -/
theorem memWrite_wf {s : State} {a n : Nat} {v : BitVec 16} (h : Memory.wf s.mem) (ha : a < addrSpace)
    (hn : n = 2 → a + 1 < addrSpace) : Memory.wf (memWrite s a n v).mem := by
  unfold memWrite; split
  · exact State.writeByte_wf (State.writeByte_wf h ha) (hn ‹_›)
  · exact State.writeByte_wf h ha

/-- `MemWrite` leaves every byte outside its `n` bytes alone. -/
theorem memWrite_byte_other {s : State} {a n b : Nat} {v : BitVec 16} (h : Memory.wf s.mem) (ha : a < addrSpace)
    (hb : b ≠ a) (hb' : n = 2 → b ≠ a + 1) : (memWrite s a n v).byte b = s.byte b := by
  unfold memWrite; split
  · rw [State.byte_writeByte_other (State.writeByte_wf h ha) (hb' ‹_›), State.byte_writeByte_other h hb]
  · exact State.byte_writeByte_other h hb

/-- An accessible range lies below 2^32 and every byte of it is mapped. -/
theorem accessible_spec {p : Params} {a n : Nat} :
    accessible p a n = true ↔ ∀ j < n, mapped p (a + j) = true := by simp [accessible]

theorem mapped_lt {p : Params} {a : Nat} (h : mapped p a = true) : a < addrSpace := by
  simp [mapped] at h; exact h.1

end Sys2Proof.Machine
end

