-- ==== Sys2Proof/Laws/Ops.lean ====
section
/-! SUPPORT. For each shared operation, once, everything it can do: what the provers cite instead of unfolding it. -/

namespace Sys2Proof.Machine

/-- A response is a next state that differs in the response port alone. -/
theorem respond_eq (s : State) (d : BitVec 64) : respond s d = .next { s with rsp := some ⟨0#4, d⟩ } := rfl

/-- A rejection is a next state that differs in the response port alone, with data 0. -/
theorem reject_eq (s : State) (c : Status) : reject s c = .next { s with rsp := some ⟨statusCode c, 0#64⟩ } := rfl

theorem respond_next {s t : State} {d : BitVec 64} : respond s d = .next t ↔ t = s.answer .ok d := by
  simp [respond, eq_comm]

theorem reject_next {s t : State} {c : Status} : reject s c = .next t ↔ t = s.answer c 0#64 := by
  simp [reject, eq_comm]

/-- The prologue either rejects with E_CHAN or runs the body on the channel's registers. -/
theorem withChannel_cases (s : State) (ch : ChIx) (body : Channel → Result) :
    (ch.toNat < s.nCh ∧ withChannel s ch body = body (s.chan ch))
      ∨ (¬ ch.toNat < s.nCh ∧ withChannel s ch body = reject s .eChan) := by
  unfold withChannel; split <;> simp_all

@[simp] theorem withChannel_of_lt {s : State} {ch : ChIx} (h : ch.toNat < s.nCh) (body : Channel → Result) :
    withChannel s ch body = body (s.chan ch) := by simp [withChannel, h]

@[simp] theorem withChannel_of_not_lt {s : State} {ch : ChIx} (h : ¬ ch.toNat < s.nCh) (body : Channel → Result) :
    withChannel s ch body = reject s .eChan := by simp [withChannel, h]

/-- Every way a store command can begin: E_RANGE, an empty sequence, or a job in progress. -/
theorem beginStore_cases (s : State) (addr : Addr) (bytes : List Byte) (zeros : Nat) :
    (addrSpace < addr.toNat + (bytes.length + zeros) ∧ beginStore s addr bytes zeros = reject s .eRange)
      ∨ (addr.toNat + (bytes.length + zeros) ≤ addrSpace ∧ bytes.length + zeros = 0
          ∧ beginStore s addr bytes zeros = respond s 0#64)
      ∨ (addr.toNat + (bytes.length + zeros) ≤ addrSpace ∧ 1 ≤ bytes.length + zeros
          ∧ beginStore s addr bytes zeros = .next { s with store := some ⟨addr, bytes, zeros⟩, rsp := none }) := by
  simp only [beginStore]
  split_ifs with h1 h2
  · exact .inl ⟨h1, rfl⟩
  · exact .inr (.inl ⟨by omega, h2, rfl⟩)
  · exact .inr (.inr ⟨by omega, by omega, rfl⟩)

/-- Taking a byte from a job leaves a job one byte shorter at the next address. -/
theorem takeByte_some {j j' : StoreJob} {b : Byte} (h : takeByte j = some (b, j')) :
    j'.next = j.next + 1#32 ∧ jobLength j = jobLength j' + 1 := by
  obtain ⟨nx, bytes, zeros⟩ := j
  rcases bytes with _ | ⟨x, xs⟩ <;> rcases zeros with _ | z <;> simp [takeByte] at h <;>
    obtain ⟨rfl, rfl⟩ := h <;> (simp [jobLength]; try omega)

theorem takeByte_none {j : StoreJob} : takeByte j = none ↔ jobLength j = 0 := by
  unfold takeByte jobLength
  split <;> simp_all

/-- The bytes a job still has to write, in order. -/
def jobBytes (j : StoreJob) : List Byte := j.bytes ++ List.replicate j.zeros 0#8

theorem jobBytes_length (j : StoreJob) : (jobBytes j).length = jobLength j := by simp [jobBytes, jobLength]

/-- A job's next byte is the first of its bytes. -/
theorem takeByte_jobBytes {j j' : StoreJob} {b : Byte} (h : takeByte j = some (b, j')) :
    jobBytes j = b :: jobBytes j' := by
  obtain ⟨nx, bytes, zeros⟩ := j
  rcases bytes with _ | ⟨x, xs⟩ <;> rcases zeros with _ | z <;> simp [takeByte] at h <;>
    obtain ⟨rfl, rfl⟩ := h <;> simp [jobBytes, List.replicate_succ]

/-- Every way the host's step inside a store command can go. -/
theorem hostByteStep_cases (s : State) :
    (s.store = none ∧ hostByteStep s = .next s)
      ∨ (∃ j, s.store = some j ∧ takeByte j = none ∧ hostByteStep s = respond { s with store := none } 0#64)
      ∨ (∃ j b j', s.store = some j ∧ takeByte j = some (b, j') ∧ accessible s.par j.next.toNat 1 = false
          ∧ hostByteStep s = .next s)
      ∨ (∃ j b j', s.store = some j ∧ takeByte j = some (b, j') ∧ accessible s.par j.next.toNat 1 = true
          ∧ jobLength j' = 0
          ∧ hostByteStep s = respond { s.writeByte j.next.toNat b with store := none } 0#64)
      ∨ (∃ j b j', s.store = some j ∧ takeByte j = some (b, j') ∧ accessible s.par j.next.toNat 1 = true
          ∧ 1 ≤ jobLength j'
          ∧ hostByteStep s = .next { s.writeByte j.next.toNat b with store := some j' }) := by
  rcases hs : s.store with _ | j
  · exact .inl ⟨rfl, by simp [hostByteStep, hs]⟩
  rcases ht : takeByte j with _ | ⟨b, j'⟩
  · exact .inr (.inl ⟨j, rfl, ht, by simp [hostByteStep, hs, ht]⟩)
  by_cases ha : accessible s.par j.next.toNat 1 = true
  · by_cases hl : jobLength j' = 0
    · exact .inr (.inr (.inr (.inl ⟨j, b, j', rfl, ht, ha, hl, by simp [hostByteStep, hs, ht, ha, hl]⟩)))
    · exact .inr (.inr (.inr (.inr ⟨j, b, j', rfl, ht, ha, by omega, by simp [hostByteStep, hs, ht, ha, hl]⟩)))
  · exact .inr (.inr (.inl ⟨j, b, j', rfl, ht, by simpa using ha, by simp [hostByteStep, hs, ht, ha]⟩))

/-- The host's step inside a store command always has a next state. -/
theorem hostByteStep_next (s : State) : ∃ t, hostByteStep s = .next t := by
  rcases hostByteStep_cases s with ⟨-, h⟩ | ⟨_, -, -, h⟩ | ⟨_, _, _, -, -, -, h⟩ | ⟨_, _, _, -, -, -, -, h⟩ |
    ⟨_, _, _, -, -, -, -, h⟩ <;> exact ⟨_, h⟩

/-- What a moved element does to a channel: the log grows, and the count either stays above zero, completes, or wraps. -/
theorem advance_cases (c : Channel) (r : OutRec) :
    (c.cnt ≠ 1#16 ∧ advance c r =
        { c with out := c.out ++ [r], cur := c.cur + BitVec.ofNat 32 (elemSize c.cfg), cnt := c.cnt - 1#16 })
      ∨ (c.cnt = 1#16 ∧ c.cfg.circ = false ∧ advance c r =
        { c with out := c.out ++ [r], cur := c.cur + BitVec.ofNat 32 (elemSize c.cfg), cnt := 0#16, tcf := true })
      ∨ (c.cnt = 1#16 ∧ c.cfg.circ = true ∧ advance c r =
        { c with out := c.out ++ [r], cur := c.src, cnt := c.cntReload }) := by
  by_cases h : c.cnt = 1#16
  · cases hc : c.cfg.circ
    · exact .inr (.inl ⟨h, rfl, by simp [advance, h, hc, raiseTcf]⟩)
    · exact .inr (.inr ⟨h, rfl, by simp [advance, h, hc]⟩)
  · have : c.cnt - 1#16 ≠ 0#16 := fun e => h (by rw [← BitVec.sub_add_cancel c.cnt 1#16, e]; rfl)
    exact .inl ⟨h, by simp [advance, this]⟩

/-- Every way REQ can go: no such wire, no effect, or served. -/
theorem execReq_cases (ch : ChIx) (s : State) :
    (¬ ch.toNat < s.nCh ∧ execReq ch s = .refused (.noSuchWire ch))
      ∨ (ch.toNat < s.nCh ∧ (running (s.chan ch) && moveEnabled s.par (s.chan ch)) = false
          ∧ execReq ch s = .next s)
      ∨ (ch.toNat < s.nCh ∧ running (s.chan ch) = true ∧ moveEnabled s.par (s.chan ch) = true
          ∧ execReq ch s = .next (serve s ch)) := by
  unfold execReq
  split_ifs with h1 h2
  · simp at h2; exact .inr (.inr ⟨h1, h2.1, h2.2, rfl⟩)
  · exact .inr (.inl ⟨h1, by simpa using h2, rfl⟩)
  · exact .inl ⟨h1, rfl⟩

/-- The chunk length is `min(r, CAP)`. -/
theorem chunkLength_toNat (p : Params) (r : BitVec 32) : (chunkLength p r).toNat = min r.toNat p.cap.toNat := by
  unfold chunkLength
  have := p.cap.isLt
  split
  · rw [BitVec.toNat_setWidth, Nat.mod_eq_of_lt (by omega)]; omega
  · omega

end Sys2Proof.Machine
end

