-- ==== Sys2Proof/Laws/Encoder.lean ====
section
/-! SUPPORT. The shape of the encoder's byte sequences. -/

namespace Sys2Proof.Machine

@[simp] theorem ledEnc_length (p : Params) (v : Byte) : (ledEnc p v).length = 8 := by simp [ledEnc]

theorem ledPixel_eq (p : Params) (r g bl : Byte) :
    ledPixel p r g bl = ledEnc p g ++ ledEnc p r ++ ledEnc p bl := by
  simp [ledPixel, channelOrder, colourValue]

@[simp] theorem ledPixel_length (p : Params) (r g bl : Byte) : (ledPixel p r g bl).length = 24 := by
  simp [ledPixel_eq]

@[simp] theorem resetPulse_length (n : Nat) : (resetPulse n).length = n := by simp [resetPulse]

theorem ledFrame_cons (p : Params) (c : Byte × Byte × Byte) (cs : List (Byte × Byte × Byte)) (z : Nat) :
    ledFrame p (c :: cs) z = ledPixel p c.1 c.2.1 c.2.2 ++ ledFrame p cs z := by simp [ledFrame]

end Sys2Proof.Machine
end

