-- ==== Sys2Proof/Laws/Meanings.lean ====
section
/-! SUPPORT. One inversion lemma per meaning: if it answers a next state, which state that can be. -/

namespace Sys2Proof.Machine

/-- A rejection: the response alone. -/
abbrev RejectedTo (s t : State) : Prop := ∃ code, code ≠ Status.ok ∧ t = s.answer code 0#64

theorem execCfg_next {ch : ChIx} {f : CfgFields} {s t : State} (h : execCfg ch f s = .next t) :
    RejectedTo s t ∨ (ch.toNat < s.nCh ∧ (s.chan ch).en = false ∧ cfgLegal f = true
      ∧ t = (s.setChan ch (configure (s.chan ch) f)).answer .ok 0#64) := by
  simp only [execCfg, withChannel, reject, respond] at h
  split_ifs at h <;> cases h <;> first | exact .inl ⟨_, by decide, rfl⟩ | (right; simp_all)

/-- The two shapes an accepted CFG gives its channel. -/
theorem configure_cases (c : Channel) (f : CfgFields) :
    (c.av = true ∧ f.width ≠ c.cfg.width
        ∧ configure c f = { c with cfg := f, cv := true, av := false, cnt := 0#16 })
      ∨ (¬ (c.av = true ∧ f.width ≠ c.cfg.width) ∧ configure c f = { c with cfg := f, cv := true }) := by
  unfold configure; split <;> simp_all

theorem execArm_next {ch : ChIx} {src dst : Addr} {count : BitVec 32} {s t : State}
    (h : execArm ch src dst count s = .next t) :
    RejectedTo s t ∨ (ch.toNat < s.nCh ∧ (s.chan ch).en = false ∧ (s.chan ch).cv = true
      ∧ countLegal count = true ∧ addrsAligned (elemSize (s.chan ch).cfg) src dst = true
      ∧ src.toNat + count.toNat * elemSize (s.chan ch).cfg ≤ addrSpace
      ∧ t = (s.setChan ch (loadDescriptor (s.chan ch) src dst count)).answer .ok 0#64) := by
  simp only [execArm, withChannel, reject, respond] at h
  split_ifs at h <;> cases h <;> first | exact .inl ⟨_, by decide, rfl⟩ | (right; simp_all)

theorem execEn_next {ch : ChIx} {s t : State} (h : execEn ch s = .next t) :
    RejectedTo s t ∨ (ch.toNat < s.nCh
      ∧ t = (s.setChan ch { s.chan ch with en := true }).answer .ok 0#64) := by
  simp only [execEn, withChannel, reject, respond] at h
  split_ifs at h <;> cases h <;> first | exact .inl ⟨_, by decide, rfl⟩ | (right; simp_all)

theorem execDis_next {ch : ChIx} {s t : State} (h : execDis ch s = .next t) :
    RejectedTo s t ∨ (ch.toNat < s.nCh
      ∧ t = ((s.setChan ch { s.chan ch with en := false }).forceIdle ch).answer .ok 0#64) := by
  simp only [execDis, withChannel, reject, respond] at h
  split_ifs at h <;> cases h <;> first | exact .inl ⟨_, by decide, rfl⟩ | (right; simp_all)

theorem execRunq_next {ch : ChIx} {s t : State} (h : execRunq ch s = .next t) : ∃ code d, t = s.answer code d := by
  simp only [execRunq, withChannel, reject, respond] at h
  split_ifs at h <;> cases h <;> exact ⟨_, _, rfl⟩

theorem execCntq_next {ch : ChIx} {s t : State} (h : execCntq ch s = .next t) : ∃ code d, t = s.answer code d := by
  simp only [execCntq, withChannel, reject, respond] at h
  split_ifs at h <;> cases h <;> exact ⟨_, _, rfl⟩

theorem execTcq_next {ch : ChIx} {s t : State} (h : execTcq ch s = .next t) : ∃ code d, t = s.answer code d := by
  simp only [execTcq, withChannel, reject, respond] at h
  split_ifs at h <;> cases h <;> exact ⟨_, _, rfl⟩

theorem execClrtc_next {ch : ChIx} {s t : State} (h : execClrtc ch s = .next t) :
    RejectedTo s t ∨ (ch.toNat < s.nCh ∧ (ch ≠ s.par.chK ∨ s.st = .idle)
      ∧ t = (s.setChan ch (clearTcf (s.chan ch))).answer .ok 0#64) := by
  simp only [execClrtc, withChannel, reject, respond] at h
  split_ifs at h <;> cases h <;> first
    | exact .inl ⟨_, by decide, rfl⟩
    | (right; simp_all [State.isK]; by_cases hk : ch = s.par.chK <;> simp_all)

/-- The conditions under which CKSTART is accepted (R202). -/
abbrev CkstartAccepts (s : State) (len off : BitVec 32) : Prop :=
  s.st = .idle ∧ s.kChan.en = false ∧ s.kChan.cv = true ∧ s.kChan.av = true ∧ cfgChunkable s.kChan.cfg = true
    ∧ s.kChan.tcf = false ∧ len ≠ 0#32 ∧ s.kChan.src.toNat + off.toNat + len.toNat ≤ addrSpace

/-- The state after an accepted CKSTART. -/
def ckstarted (s : State) (len off : BitVec 32) : State :=
  { s.setK { s.kChan with cur := s.kChan.src + off, cnt := chunkLength s.par len, en := true } with
    done := false, err := false, rem := len, chunk := chunkLength s.par len, st := .active, rsp := some ⟨0#4, 0#64⟩ }

theorem execCkstart_next {len off : BitVec 32} {s t : State} (h : execCkstart len off s = .next t) :
    RejectedTo s t ∨ (CkstartAccepts s len off ∧ t = ckstarted s len off) := by
  simp only [execCkstart, reject, respond] at h
  split_ifs at h <;> cases h <;> first | exact .inl ⟨_, by decide, rfl⟩ | (right; refine ⟨?_, rfl⟩; simp_all [CkstartAccepts])

theorem execCkcancel_next {s t : State} (h : execCkcancel s = .next t) :
    (s.st ≠ .idle ∧ t = { s.setK { s.kChan with en := false } with
        st := .idle, rem := 0#32, chunk := 0#16, rsp := some ⟨0#4, 0#64⟩ })
      ∨ (s.st = .idle ∧ t = { s with rem := 0#32, chunk := 0#16, rsp := some ⟨0#4, 0#64⟩ }) := by
  simp only [execCkcancel, respond] at h
  split_ifs at h with h1 <;> cases h <;> simp at h1
  · exact .inl ⟨h1, rfl⟩
  · exact .inr ⟨h1, by simp [State.answer, statusCode, h1]⟩

theorem execService_next {s t : State} (h : execService s = .next t) :
    s.st = .active ∧ s.kChan.tcf = true ∧ t = { s.setK { s.kChan with tcf := false } with
      rem := s.rem - s.chunk.setWidth 32,
      st := if s.rem - s.chunk.setWidth 32 = 0#32 then .done else .reloadNext } := by
  simp only [execService] at h
  split_ifs at h <;> cases h <;> simp_all [serviceEnabled, clearTcf]

theorem execReload_next {s t : State} (h : execReload s = .next t) :
    s.st = .reloadNext ∧ t = { s.setK { s.kChan with cnt := chunkLength s.par s.rem } with
      pulses := s.pulses ++ [.chunkContinue], chunk := chunkLength s.par s.rem, st := .active } := by
  simp only [execReload] at h
  split_ifs at h with h1; cases h; exact ⟨h1, rfl⟩

theorem execFinish_next {s t : State} (h : execFinish s = .next t) :
    s.st = .done ∧ t = { s.setK { s.kChan with en := false } with
      done := true, pulses := s.pulses ++ [.chunkDone], chunk := 0#16, st := .idle } := by
  simp only [execFinish] at h
  split_ifs at h with h1; cases h; exact ⟨h1, rfl⟩

theorem execBuserr_next {s t : State} (h : execBuserr s = .next t) :
    ((s.st = .active ∨ s.st = .reloadNext) ∧ t = { s.setK { s.kChan with en := false } with
        err := true, rem := 0#32, chunk := 0#16, st := .idle })
      ∨ ((s.st = .idle ∨ s.st = .done) ∧ t = s) := by
  simp only [execBuserr] at h
  split_ifs at h with h1 <;> cases h
  · exact .inl ⟨h1, rfl⟩
  · right; rcases hs : s.st <;> simp_all

/-- The start of a store command: a rejection, an immediate response, or a job in progress. -/
theorem beginStore_next {s t : State} {addr : Addr} {bytes : List Byte} {zeros : Nat}
    (h : beginStore s addr bytes zeros = .next t) :
    RejectedTo s t ∨ t = s.answer .ok 0#64
      ∨ (addr.toNat + (bytes.length + zeros) ≤ addrSpace ∧ 1 ≤ bytes.length + zeros
          ∧ t = { s with store := some ⟨addr, bytes, zeros⟩, rsp := none }) := by
  rcases beginStore_cases s addr bytes zeros with ⟨-, e⟩ | ⟨-, -, e⟩ | ⟨h1, h2, e⟩ <;> rw [e] at h <;> cases h
  · exact .inl ⟨_, by decide, rfl⟩
  · exact .inr (.inl rfl)
  · exact .inr (.inr ⟨h1, h2, rfl⟩)

theorem execPeriod_next {x y z : BitVec 32} {s t : State} (h : execPeriod x y z s = .next t) :
    ∃ code d, t = s.answer code d := by
  simp only [execPeriod, reject, respond] at h
  split_ifs at h <;> cases h <;> exact ⟨_, _, rfl⟩

/-- What serving a request does to any channel's registers. -/
theorem serve_chan (s : State) (ch j : ChIx) :
    (serve s ch).chan j = if j = ch ∧ ch.toNat < s.nCh then
      advance (s.chan ch) ⟨(s.chan ch).dst, elemSize (s.chan ch).cfg,
        memRead s (s.chan ch).cur.toNat (elemSize (s.chan ch).cfg)⟩
    else s.chan j := by
  simp only [serve, State.chan_setChan]
  rw [State.nCh_of_chans (t := memWrite s _ _ _) (s := s) (by simp),
    State.chan_of_chans (t := memWrite s _ _ _) (s := s) (by simp)]

/-- Serving a request changes channels and memory alone. -/
theorem serve_eq (s : State) (ch : ChIx) :
    serve s ch = { s with chans := (serve s ch).chans, mem := (serve s ch).mem } := by
  simp only [serve]; rw [memWrite_eq]; rfl

theorem State.forceIdle_chan (s : State) (ch j : ChIx) : (s.forceIdle ch).chan j = s.chan j :=
  State.chan_of_chans (by simp) j

theorem State.forceIdle_st (s : State) (ch : ChIx) :
    (s.forceIdle ch).st = if ch = s.par.chK then .idle else s.st := by
  unfold State.forceIdle State.isK
  by_cases hk : ch = s.par.chK <;> rcases hs : s.st <;> simp_all

end Sys2Proof.Machine
end

