-- ==== Sys2Proof/Laws/PerInstr.lean ====
section
/-! SUPPORT. The statements made of every instruction, one lemma per constructor. -/

namespace Sys2Proof.Laws.PortKind

/-- A host command is encoded as a word of the command port, every other operation as a label word (R98, R100). -/
def Statement (i : Instr) : Prop :=
  if i.isCommand then ∃ w, encode i = .cmd w else ∃ w, encode i = .evt w

theorem cfg (ch : ChIx) (f : CfgFields) : Statement (.cfg ch f) := ⟨_, rfl⟩
theorem arm (ch : ChIx) (src dst : Addr) (count : BitVec 32) : Statement (.arm ch src dst count) := ⟨_, rfl⟩
theorem en (ch : ChIx) : Statement (.en ch) := ⟨_, rfl⟩
theorem dis (ch : ChIx) : Statement (.dis ch) := ⟨_, rfl⟩
theorem runq (ch : ChIx) : Statement (.runq ch) := ⟨_, rfl⟩
theorem cntq (ch : ChIx) : Statement (.cntq ch) := ⟨_, rfl⟩
theorem tcq (ch : ChIx) : Statement (.tcq ch) := ⟨_, rfl⟩
theorem clrtc (ch : ChIx) : Statement (.clrtc ch) := ⟨_, rfl⟩
theorem ckstart (len off : BitVec 32) : Statement (.ckstart len off) := ⟨_, rfl⟩
theorem ckcancel : Statement .ckcancel := ⟨_, rfl⟩
theorem ckstat : Statement .ckstat := ⟨_, rfl⟩
theorem encq (value : Byte) : Statement (.encq value) := ⟨_, rfl⟩
theorem encst (addr : Addr) (value : Byte) : Statement (.encst addr value) := ⟨_, rfl⟩
theorem encpx (addr : Addr) (r g bl : Byte) : Statement (.encpx addr r g bl) := ⟨_, rfl⟩
theorem encrst (addr : Addr) (n : BitVec 32) : Statement (.encrst addr n) := ⟨_, rfl⟩
theorem order : Statement .order := ⟨_, rfl⟩
theorem period (clock freq count : BitVec 32) : Statement (.period clock freq count) := ⟨_, rfl⟩
theorem req (ch : ChIx) : Statement (.req ch) := ⟨_, rfl⟩
theorem buserr : Statement .buserr := ⟨_, rfl⟩
theorem rst : Statement .rst := ⟨_, rfl⟩
theorem service : Statement .service := ⟨_, rfl⟩
theorem reload : Statement .reload := ⟨_, rfl⟩
theorem finish : Statement .finish := ⟨_, rfl⟩

end Sys2Proof.Laws.PortKind
end

