-- ==== Sys2Proof/Laws/Pseudo.lean ====
section
/-! SUPPORT. What one turn of a pseudo-operation can do, said once, and the expansion of a `ledframe` that fits. -/

namespace Sys2Proof.Machine

@[simp] theorem State.offer_sched (s : State) (x : Input) : (s.offer x).sched = x :: s.sched := rfl
@[simp] theorem State.offer_store (s : State) (x : Input) : (s.offer x).store = s.store := rfl
@[simp] theorem State.offer_hostBusy (s : State) (x : Input) : (s.offer x).hostBusy = s.hostBusy := rfl
@[simp] theorem State.offer_popInput (s : State) (x : Input) : (s.offer x).popInput = s := rfl

/-- A turn that answers a next state took one machine step, and the entries left are those the step's kind says. -/
theorem withTodo_next {left : State → List PseudoStep} {r : Result} {y : PseudoRun}
    (h : withTodo left r = .next y) : r = .next y.s ∧ y.todo = left y.s := by
  cases r with
  | next t => simp only [withTodo, Host.Outcome.next.injEq] at h; subst h; exact ⟨rfl, rfl⟩
  | fault f => exact nomatch h
  | refused f => exact nomatch h

/-- Every turn of a pseudo-operation is another agent's step, a byte write of the host, an issued command, or, with
nothing left to issue, nothing. -/
theorem pseudoTurn_next {who : Turn} {x y : PseudoRun} (h : pseudoTurn who x = .next y) :
    (∃ w, who = .other w ∧ step (x.s.offer (.evt w)) = .next y.s ∧ y.todo = todoAfterOther x y.s)
    ∨ (who = .host ∧ x.s.hostBusy = true ∧ step (x.s.offer .hostByte) = .next y.s ∧ y.todo = x.todo)
    ∨ (who = .host ∧ x.s.hostBusy = false ∧ x.todo = [] ∧ y = x)
    ∨ ∃ a rest, who = .host ∧ x.s.hostBusy = false ∧ x.todo = a :: rest
        ∧ step (x.s.offer (inputOf a.command)) = .next y.s ∧ y.todo = todoAfter a rest y.s := by
  cases who with
  | other w => exact .inl ⟨w, rfl, withTodo_next h⟩
  | host =>
    refine .inr ?_
    simp only [pseudoTurn] at h
    split at h
    next hb => exact .inl ⟨rfl, hb, withTodo_next h⟩
    next hb =>
      have hb : x.s.hostBusy = false := by simpa using hb
      split at h
      next ht => cases h; exact .inr (.inl ⟨rfl, hb, ht, rfl⟩)
      next a rest ht => exact .inr (.inr ⟨a, rest, rfl, hb, ht, withTodo_next h⟩)

/-- A rejected command ends the pseudo-operation (R102). -/
theorem todoAfter_rejected {a : PseudoStep} {rest : List PseudoStep} {t : State} {r : Response} (h : t.rsp = some r)
    (hr : r.status ≠ statusCode .ok) : todoAfter a rest t = [] := by
  simp [todoAfter, h, hr]

/-- A wait whose accepted query does not yet say what is awaited is issued again (R102). -/
theorem todoAfter_again {a : PseudoStep} {rest : List PseudoStep} {t : State} {r : Response} (h : t.rsp = some r)
    (hr : r.status = statusCode .ok) (ho : a.over r = false) : todoAfter a rest t = a :: rest := by
  simp [todoAfter, h, hr, ho]

/-- An accepted entry that is over leaves the rest (R102). -/
theorem todoAfter_over {a : PseudoStep} {rest : List PseudoStep} {t : State} {r : Response} (h : t.rsp = some r)
    (hr : r.status = statusCode .ok) (ho : a.over r = true) : todoAfter a rest t = rest := by
  simp [todoAfter, h, hr, ho]

/-- An operand that fits its word. -/
theorem operand32_fits {n : Nat} (h : n < 2 ^ 32) : operand32 n = some (BitVec.ofNat 32 n) := if_pos h

/-- An operand that no word holds. -/
theorem operand32_none {n : Nat} (h : 2 ^ 32 ≤ n) : operand32 n = none := if_neg (by omega)

/-- Where every operand fits, `ledframe` is one ENCPX at `a + 24·i` for pixel `i`, then ENCRST at `a + 24·m` (R102). -/
theorem ledframeFrom_fits {z : Nat} (hz : z < 2 ^ 32) (cs : List (Byte × Byte × Byte)) {a : Nat}
    (h : a + 24 * cs.length < 2 ^ 32) :
    ledframeFrom z a cs =
      (cs.mapIdx fun i c => .issue (.encpx (BitVec.ofNat 32 (a + 24 * i)) c.1 c.2.1 c.2.2))
        ++ [.issue (.encrst (BitVec.ofNat 32 (a + 24 * cs.length)) (BitVec.ofNat 32 z))] := by
  induction cs generalizing a with
  | nil =>
    have ha : a < 2 ^ 32 := by simpa using h
    simp [ledframeFrom, operand32_fits ha, operand32_fits hz]
  | cons c cs ih =>
    simp only [List.length_cons] at h
    have shift : ∀ i, a + 24 + 24 * i = a + 24 * (i + 1) := fun i => by omega
    simp [ledframeFrom, operand32_fits (show a < 2 ^ 32 by omega), ih (a := a + 24) (by omega), List.mapIdx_cons, shift]

end Sys2Proof.Machine
end

