-- ==== Sys2Proof/Machine/Assembler.lean ====
section
/-! DEFINITION. The assembler statements of spec/30_encoding.md R101, numbers in decimal. -/

namespace Sys2Proof.Machine

/-- A mnemonic with its operands, separated by commas. -/
def statementOf (mnemonic : String) (operands : List String) : String :=
  if operands.isEmpty then mnemonic else mnemonic ++ " " ++ String.intercalate ", " operands

/-- A number as it stands in a statement. -/
def decimal {n : Nat} (v : BitVec n) : String := toString v.toNat

/-- The statement of CFG: `cfg` for the four legal field values, `cfg.raw` with the 16-bit `aux` for the others. -/
def cfgStatement (ch : ChIx) (f : CfgFields) : String :=
  if (f.width = 0#2 ∨ f.width = 1#2) ∧ f.dir = false ∧ f.incSrc = true ∧ f.incDst = false then
    statementOf "cfg" [decimal ch, if f.width = 0#2 then "W8" else "W16", if f.circ then "circ" else "oneshot"]
  else statementOf "cfg.raw" [decimal ch, decimal (cfgToBits f)]

/-- The statement of an operation. -/
def statement : Instr → String
  | .cfg ch f => cfgStatement ch f
  | .arm ch src dst count => statementOf "arm" [decimal ch, decimal src, decimal dst, decimal count]
  | .en ch => statementOf "en" [decimal ch]
  | .dis ch => statementOf "dis" [decimal ch]
  | .runq ch => statementOf "runq" [decimal ch]
  | .cntq ch => statementOf "cntq" [decimal ch]
  | .tcq ch => statementOf "tcq" [decimal ch]
  | .clrtc ch => statementOf "clrtc" [decimal ch]
  | .ckstart len off => statementOf "ckstart" [decimal len, decimal off]
  | .ckcancel => "ckcancel"
  | .ckstat => "ckstat"
  | .encq value => statementOf "encq" [decimal value]
  | .encst addr value => statementOf "encst" [decimal addr, decimal value]
  | .encpx addr r g bl => statementOf "encpx" [decimal addr, decimal r, decimal g, decimal bl]
  | .encrst addr n => statementOf "encrst" [decimal addr, decimal n]
  | .order => "order"
  | .period clock freq count => statementOf "period" [decimal clock, decimal freq, decimal count]
  | .req ch => statementOf "req" [decimal ch]
  | .buserr => "buserr"
  | .rst => "rst"
  | .service => "service"
  | .reload => "reload"
  | .finish => "finish"

/-- The statement of a host load or store. -/
def accessStatement : HostAccess → String
  | .st8 a v => statementOf "st8" [decimal a, decimal v]
  | .st16 a v => statementOf "st16" [decimal a, decimal v]
  | .ld8 a => statementOf "ld8" [decimal a]
  | .ld16 a => statementOf "ld16" [decimal a]

end Sys2Proof.Machine
end

