-- ==== Sys2Proof/Tests/Slice0.lean ====
section
/-! SUPPORT. Tests: the well-formedness smoke, one decode test per operation on a word written out from
spec/30_encoding.md, at most two one-step tests per operation with the results of spec/95_test_vectors.md, and a
witness for the hypotheses of every obligation that has some. -/

namespace Sys2Proof.Tests

open Sys2Proof.Machine

/-! ### The instance of spec/95_test_vectors.md section 0, and small states over it -/

/-- N_CH = 2, CH_K = 1, CAP = 255, wire bytes F8 and C0. -/
def inst : Params := { Params.defaults with chK := 1#8 }

/-- The same with CAP = 4. -/
def inst4 : Params := { inst with cap := 4#16 }

/-- The state right after reset with two channels of the given registers. -/
def two (p : Params) (c0 c1 : Channel) : State := { State.reset with par := p, chans := [c0, c1] }

/-- Both channels as after reset. -/
def base : State := two inst Channel.atReset Channel.atReset

/-- A channel configured and armed at `src` for `n` elements to the data register 0x40007408. -/
def armedChan (w16 circular : Bool) (src : Addr) (n : BitVec 16) : Channel :=
  { Channel.atReset with
    cfg := legalFields w16 circular, cv := true, src := src, dst := 0x40007408#32, cntReload := n, cur := src
    cnt := n, av := true }

/-- The same channel, enabled. -/
def runningChan (w16 circular : Bool) (src : Addr) (n : BitVec 16) : Channel :=
  { armedChan w16 circular src n with en := true }

/-- Channel 0 disabled and armed W16 one-shot, as after VB21. -/
def armed0 : State := two inst (armedChan true false 0x20000000#32 0xFFFF#16) Channel.atReset

/-- Channel 1 armed for a chunked transfer from 0x20001000, CAP = 4 (VD2 before its `ckstart`). -/
def ready1 : State := two inst4 Channel.atReset (armedChan false false 0x20001000#32 1#16)

/-- The chunk FSM of VD2 with the given registers. -/
def fsm (c1 : Channel) (st : ChunkState) (rem : BitVec 32) (chunk : BitVec 16) : State :=
  { two inst4 Channel.atReset c1 with st := st, rem := rem, chunk := chunk }

/-- Channel 1 of VD2 with `cur`, `cnt` and `tcf` as given. -/
def kChan (cur : Addr) (cnt : BitVec 16) (tcf : Bool) : Channel :=
  { runningChan false false 0x20001000#32 1#16 with cur := cur, cnt := cnt, tcf := tcf }

/-- Active with `cnt` bytes of a 4-byte chunk of 10 left to move. -/
def active1 (cnt : BitVec 16) : State :=
  fsm (kChan (0x20001006#32 - cnt.setWidth 32) cnt (cnt == 0#16)) .active 10#32 4#16

/-- ReloadNext and Done of the same transfer. -/
def reload1 : State := fsm (kChan 0x20001006#32 0#16 false) .reloadNext 6#32 4#16
def done1 : State := fsm (kChan 0x2000100C#32 0#16 false) .done 0#32 2#16

/-- What a next state shows; nothing for a fault or a refusal. -/
def see {α : Type} (r : Result) (f : State → α) : Option α :=
  match r with
  | .next t => some (f t)
  | .fault _ => none
  | .refused _ => none

/-- The response a next state shows. -/
def answerOf (r : Result) : Option (Option Response) := see r State.rsp

/-- The instruction a command word decodes to. -/
def cmdIs (w : CmdWord) (i : Instr) : Bool := (decodeCmd w).toOption == some i

/-- The instruction a label word decodes to. -/
def labelIs (w : LabelWord) (i : Instr) : Bool := (decodeLabel w).toOption == some i

/-- The step does not answer a next state. -/
def stops (r : Result) : Bool := (see r fun _ => ()).isNone

/-! ### Well-formedness: one ill-formed term for each check -/

theorem smoke_params_wellFormed : inst.wellFormed 2 = true ∧ Params.defaults.wellFormed 1 = true := by decide
theorem smoke_no_channels : Params.defaults.wellFormed 0 = false := by decide
theorem smoke_too_many_channels : inst.wellFormed 257 = false ∧ inst.wellFormed 256 = true := by decide
theorem smoke_chK_out_of_range : inst.wellFormed 1 = false := by decide
theorem smoke_cap_zero : Params.wellFormed { inst with cap := 0#16 } 2 = false := by decide
theorem smoke_wire_bytes_equal : Params.wellFormed { inst with shortHigh := 0xF8#8 } 2 = false := by decide
theorem smoke_wire_bytes_swapped :
    Params.wellFormed { inst with longHigh := 0xC0#8, shortHigh := 0xF8#8 } 2 = false := by decide
theorem smoke_wire_byte_no_run : Params.wellFormed { inst with longHigh := 0xF5#8 } 2 = false := by decide
theorem smoke_wire_byte_all_ones : Params.wellFormed { inst with longHigh := 0xFF#8 } 2 = false := by decide
theorem smoke_reset_bytes_short : Params.wellFormed { inst with resetBytes := 63 } 2 = false := by decide
theorem smoke_req_no_wire :
    Instr.wellFormed 2 (.req 2#8) = false ∧ Instr.wellFormed 2 (.req 1#8) = true := by decide

/-! ### Decoding: a word of each operation, from the fields of R90 and the rows of R91, R95, R98 -/

-- op ch aux a b c, as spec/95_test_vectors.md writes them
theorem decodes_cfg :
    cmdIs 0x01_00_0029_00000000_00000000_00000000#128 (.cfg 0#8 ⟨true, false, true, false, 1#2⟩) := by decide
theorem decodes_cfg_raw :
    cmdIs 0x01_FF_0016_00000000_00000000_00000000#128 (.cfg 255#8 ⟨false, true, false, true, 2#2⟩) := by decide
theorem decodes_arm :
    cmdIs 0x02_01_0000_20001000_40005428_00000001#128 (.arm 1#8 0x20001000#32 0x40005428#32 1#32) := by decide
theorem decodes_en : cmdIs 0x03_01_0000_00000000_00000000_00000000#128 (.en 1#8) := by decide
theorem decodes_dis : cmdIs 0x04_02_0000_00000000_00000000_00000000#128 (.dis 2#8) := by decide
theorem decodes_runq : cmdIs 0x05_03_0000_00000000_00000000_00000000#128 (.runq 3#8) := by decide
theorem decodes_cntq : cmdIs 0x06_04_0000_00000000_00000000_00000000#128 (.cntq 4#8) := by decide
theorem decodes_tcq : cmdIs 0x07_05_0000_00000000_00000000_00000000#128 (.tcq 5#8) := by decide
theorem decodes_clrtc : cmdIs 0x08_06_0000_00000000_00000000_00000000#128 (.clrtc 6#8) := by decide
theorem decodes_ckstart :
    cmdIs 0x10_00_0000_0000000A_00000002_00000000#128 (.ckstart 10#32 2#32) := by decide
theorem decodes_ckcancel : cmdIs 0x11_00_0000_00000000_00000000_00000000#128 .ckcancel := by decide
theorem decodes_ckstat : cmdIs 0x12_00_0000_00000000_00000000_00000000#128 .ckstat := by decide
theorem decodes_encq : cmdIs 0x20_00_00A5_00000000_00000000_00000000#128 (.encq 0xA5#8) := by decide
theorem decodes_encst :
    cmdIs 0x21_00_0080_20000000_00000000_00000000#128 (.encst 0x20000000#32 0x80#8) := by decide
theorem decodes_encpx :
    cmdIs 0x22_00_0000_20000100_00123456_00000000#128 (.encpx 0x20000100#32 0x12#8 0x34#8 0x56#8) := by decide
theorem decodes_encrst :
    cmdIs 0x23_00_0000_20000118_00000000_00000040#128 (.encrst 0x20000118#32 64#32) := by decide
theorem decodes_order : cmdIs 0x24_00_0000_00000000_00000000_00000000#128 .order := by decide
theorem decodes_period :
    cmdIs 0x25_00_0000_00F42400_000001B8_00000020#128 (.period 16000000#32 440#32 32#32) := by decide
-- label words (R98)
theorem decodes_req : labelIs 0x8001#16 (.req 1#8) := by decide
theorem decodes_buserr : labelIs 0x8100#16 .buserr := by decide
theorem decodes_rst : labelIs 0x8200#16 .rst := by decide
theorem decodes_service : labelIs 0x9000#16 .service := by decide
theorem decodes_reload : labelIs 0x9100#16 .reload := by decide
theorem decodes_finish : labelIs 0x9200#16 .finish := by decide

/-- The illegal words of VE, VA8 to VA10, VA12, VA18, VB10, VB22, VB37, VD6 decode to nothing. -/
theorem decodes_nothing : List.all [
    0x00_00_0000_00000000_00000000_00000000#128, 0x09_00_0000_00000000_00000000_00000000#128,
    0x0F_00_0000_00000000_00000000_00000000#128, 0x13_00_0000_00000000_00000000_00000000#128,
    0x1F_00_0000_00000000_00000000_00000000#128, 0x26_00_0000_00000000_00000000_00000000#128,
    0xFF_00_0000_00000000_00000000_00000000#128, 0x20_01_00A5_00000000_00000000_00000000#128,
    0x20_00_01A5_00000000_00000000_00000000#128, 0x20_00_00A5_00000000_00000000_00000001#128,
    0x24_00_0000_00000001_00000000_00000000#128, 0x22_00_0000_20000200_01000000_00000000#128,
    0x01_00_0048_00000000_00000000_00000000#128, 0x01_FF_0048_00000000_00000000_00000000#128,
    0x02_00_0001_20000000_40007408_00000004#128, 0x05_00_0000_00000000_00000000_00000001#128,
    0x10_01_0000_0000000A_00000000_00000000#128, 0x12_00_0000_00000001_00000000_00000000#128,
    0x11_00_0001_00000000_00000000_00000000#128] (fun w => (decodeCmd w).toOption == none) = true := by decide

/-- Labels that name no step (R98): an unknown kind, and a `ch` field that must be 0. -/
theorem labels_nothing : List.all [0x0000#16, 0x8300#16, 0x9300#16, 0x8101#16, 0x8201#16, 0x9001#16, 0x9101#16,
    0x9201#16] (fun w => (decodeLabel w).toOption == none) = true := by decide

/-! ### One step of each operation, against spec/95_test_vectors.md -/

-- VB2, VB3 on an armed channel (VB-series 2: a change of width disarms)
theorem test_cfg : answerOf (exec (.cfg 0#8 (legalFields false false)) base) = some (some ⟨0#4, 0#64⟩) := by decide
theorem test_cfg_width_change :
    see (exec (.cfg 0#8 (legalFields false true)) armed0) (fun t => ((t.chan 0#8).av, (t.chan 0#8).cnt))
      = some (false, 0#16) := by decide
-- VB19, VB30
theorem test_arm_to_the_top :
    see (exec (.arm 0#8 0xFFFE0002#32 0x40007408#32 65535#32) armed0) (fun t => ((t.chan 0#8).cur, t.rsp))
      = some (0xFFFE0002#32, some ⟨0#4, 0#64⟩) := by decide
theorem test_arm_busy :
    answerOf (exec (.arm 0#8 0x20000001#32 0x40000000#32 70000#32)
      (two inst (runningChan true false 0x20000000#32 4#16) Channel.atReset)) = some (some ⟨3#4, 0#64⟩) := by decide
-- VB26, VB36
theorem test_en : see (exec (.en 0#8) armed0) (fun t => (t.chan 0#8).en) = some true := by decide
theorem test_en_no_channel : answerOf (exec (.en 2#8) base) = some (some ⟨2#4, 0#64⟩) := by decide
-- VB31, VD5 (a)
theorem test_dis_keeps_count :
    see (exec (.dis 0#8) (two inst (runningChan true false 0x20000000#32 0xFFFF#16) Channel.atReset))
      (fun t => ((t.chan 0#8).en, (t.chan 0#8).cnt)) = some (false, 0xFFFF#16) := by decide
theorem test_dis_frees_the_fsm :
    see (exec (.dis 1#8) (active1 3#16)) (fun t => (t.st, t.rem, t.chunk)) = some (.idle, 10#32, 4#16) := by decide
-- VB25, VB27
theorem test_runq_not_enabled : answerOf (exec (.runq 0#8) armed0) = some (some ⟨0#4, 0#64⟩) := by decide
theorem test_runq_running : answerOf (exec (.runq 1#8) (active1 3#16)) = some (some ⟨0#4, 1#64⟩) := by decide
-- VB24
theorem test_cntq : answerOf (exec (.cntq 0#8) armed0) = some (some ⟨0#4, 0xFFFF#64⟩) := by decide
-- VB34, VD3
theorem test_tcq_clear : answerOf (exec (.tcq 0#8) armed0) = some (some ⟨0#4, 0#64⟩) := by decide
theorem test_tcq_set : answerOf (exec (.tcq 1#8) (active1 0#16)) = some (some ⟨0#4, 1#64⟩) := by decide
-- VD3, VC1
theorem test_clrtc_busy : answerOf (exec (.clrtc 1#8) (active1 0#16)) = some (some ⟨3#4, 0#64⟩) := by decide
theorem test_clrtc :
    see (exec (.clrtc 0#8) (two inst { armedChan false false 0x20000010#32 3#16 with tcf := true } Channel.atReset))
      (fun t => (t.chan 0#8).tcf) = some false := by decide
-- VD2 first row, VD6
theorem test_ckstart :
    see (exec (.ckstart 10#32 2#32) ready1) (fun t => (t.kChan.cur, t.kChan.cnt, t.kChan.en, t.st, t.rem, t.chunk))
      = some (0x20001002#32, 4#16, true, .active, 10#32, 4#16) := by decide
theorem test_ckstart_past_top :
    answerOf (exec (.ckstart 16#32 0xDFFFEFF1#32) ready1) = some (some ⟨9#4, 0#64⟩) := by decide
-- VD5 (b), (c)
theorem test_ckcancel :
    see (exec .ckcancel (active1 3#16)) (fun t => (t.kChan.en, t.kChan.cnt, t.st, t.rem, t.chunk))
      = some (false, 3#16, .idle, 0#32, 0#16) := by decide
theorem test_ckcancel_in_idle :
    see (exec .ckcancel (two inst4 Channel.atReset (runningChan false true 0x20001000#32 4#16)))
      (fun t => t.kChan.en) = some true := by decide
-- VD2: after ckstart, after the first service
theorem test_ckstat_active : answerOf (exec .ckstat (active1 4#16)) = some (some ⟨0#4, 0x000000410000000A#64⟩) := by
  decide
theorem test_ckstat_reload : answerOf (exec .ckstat reload1) = some (some ⟨0#4, 0x0000004200000006#64⟩) := by decide
-- VA3, VA4
theorem test_encq : answerOf (exec (.encq 0xA5#8) base) = some (some ⟨0#4, 0xF8C0F8C0C0F8C0F8#64⟩) := by decide
theorem test_encq_first_byte : answerOf (exec (.encq 0x80#8) base) = some (some ⟨0#4, 0xC0C0C0C0C0C0C0F8#64⟩) := by
  decide
-- VA13, VA15
theorem test_encst :
    see (exec (.encst 0x20000000#32 0x80#8) base) State.store
      = some (some ⟨0x20000000#32, [0xF8, 0xC0, 0xC0, 0xC0, 0xC0, 0xC0, 0xC0, 0xC0], 0⟩) := by decide
theorem test_encst_past_top : answerOf (exec (.encst 0xFFFFFFF9#32 1#8) base) = some (some ⟨9#4, 0#64⟩) := by decide
-- VA17 (red is the middle group), VA20
theorem test_encpx :
    see (exec (.encpx 0x20000200#32 0xFF#8 0#8 0#8) base) State.store
      = some (some ⟨0x20000200#32, List.replicate 8 0xC0#8 ++ List.replicate 8 0xF8#8 ++ List.replicate 8 0xC0#8, 0⟩) := by
  decide
theorem test_encpx_past_top : answerOf (exec (.encpx 0xFFFFFFE9#32 1#8 2#8 3#8) base) = some (some ⟨9#4, 0#64⟩) := by
  decide
-- VA23, VA24
theorem test_encrst_past_top : answerOf (exec (.encrst 0xFFFFFFFF#32 2#32) base) = some (some ⟨9#4, 0#64⟩) := by
  decide
theorem test_encrst_nothing :
    see (exec (.encrst 0xFFFFFFFF#32 0#32) base) (fun t => (t.store, t.rsp)) = some (none, some ⟨0#4, 0#64⟩) := by
  decide
-- VA14: the last byte of a store command, at the top of the address space
theorem test_store_last_byte :
    see (hostByteStep { base with store := some ⟨0xFFFFFFFF#32, [0xF8#8], 0⟩ })
      (fun t => (t.mem, t.store, t.rsp)) = some ([(0xFFFFFFFF, 0xF8#8)], none, some ⟨0#4, 0#64⟩) := by decide
-- VA11
theorem test_order : answerOf (exec .order base) = some (some ⟨0#4, 0x21#64⟩) := by decide
-- VA25, VA26
theorem test_period : answerOf (exec (.period 16000000#32 440#32 32#32) base) = some (some ⟨0#4, 1136#64⟩) := by decide
theorem test_period_zero : answerOf (exec (.period 16000000#32 0#32 32#32) base) = some (some ⟨10#4, 0#64⟩) := by
  decide
-- VC4, VC2 request 4
theorem test_req_last_element :
    see (exec (.req 0#8) { two inst (runningChan true false 0xFFFFFFFE#32 1#16) Channel.atReset with
        mem := [(0xFFFFFFFE, 0xEF#8), (0xFFFFFFFF, 0xBE#8)] })
      (fun t => ((t.chan 0#8).out, (t.chan 0#8).cnt, (t.chan 0#8).tcf, (t.chan 0#8).cur))
      = some ([⟨0x40007408#32, 2, 0xBEEF#16⟩], 0#16, true, 0#32) := by decide
theorem test_req_wraps :
    see (exec (.req 0#8) { two inst { runningChan true true 0x20000100#32 4#16 with
          cur := 0x20000106#32, cnt := 1#16 } Channel.atReset with mem := [(0x20000106, 0x01#8)] })
      (fun t => ((t.chan 0#8).cur, (t.chan 0#8).cnt, (t.chan 0#8).tcf, (t.chan 0#8).out))
      = some (0x20000100#32, 4#16, false, [⟨0x40007408#32, 2, 1#16⟩]) := by decide
-- VD4 (a), (e)
theorem test_buserr :
    see (exec .buserr (active1 2#16)) (fun t => (t.err, t.kChan.en, t.kChan.cnt, t.st, t.rem, t.chunk))
      = some (true, false, 2#16, .idle, 0#32, 0#16) := by decide
theorem test_buserr_in_done : see (exec .buserr done1) id = some done1 := by decide
-- VF; a store command in progress is abandoned (R280)
theorem test_rst :
    see (exec .rst (active1 2#16)) (fun t => (t.st, t.rem, t.kChan.cv, t.kChan.cnt, t.kChan.en))
      = some (.idle, 0#32, false, 0#16, false) := by decide
theorem test_rst_abandons_a_store :
    see (exec .rst { base with store := some ⟨0#32, [1#8], 0⟩ }) (fun t => (t.store, t.rsp)) = some (none, none) := by
  decide
-- VD2: the first and the last service
theorem test_service :
    see (exec .service (active1 0#16)) (fun t => (t.kChan.tcf, t.st, t.rem, t.chunk))
      = some (false, .reloadNext, 6#32, 4#16) := by decide
theorem test_service_last :
    see (exec .service (fsm (kChan 0x2000100C#32 0#16 true) .active 2#32 2#16)) (fun t => (t.st, t.rem))
      = some (.done, 0#32) := by decide
-- VD2: the first reload, the second reload (CUR untouched)
theorem test_reload :
    see (exec .reload reload1) (fun t => (t.kChan.cnt, t.kChan.cur, t.st, t.chunk, t.pulses))
      = some (4#16, 0x20001006#32, .active, 4#16, [.chunkContinue]) := by decide
theorem test_reload_short :
    see (exec .reload (fsm (kChan 0x2000100A#32 0#16 false) .reloadNext 2#32 4#16)) (fun t => (t.kChan.cnt, t.chunk))
      = some (2#16, 2#16) := by decide
-- VD2: finish
theorem test_finish :
    see (exec .finish done1) (fun t => (t.kChan.en, t.chunk, t.done, t.st, t.pulses))
      = some (false, 0#16, true, .idle, [.chunkDone]) := by decide
-- VC5: the host's st16, little-endian
theorem test_host_st16 :
    see (hostAccess (.st16 0x20000100#32 0x0800#16) base) State.mem = some [(0x20000101, 0x08#8)] := by decide
-- S3: LedDec inverts LedEnc
theorem test_ledDec : ledDec inst [0xC0, 0xC0, 0xF8, 0xF8, 0xC0, 0xF8, 0xC0, 0xC0] = some 0x34#8 := by decide
theorem test_ledDec_not_canonical : ledDec inst [0xC0, 0xC0, 0xF8, 0xF8, 0xC0, 0xF8, 0xC0, 0xC1] = none := by decide
-- S7: one ENCPX a pixel at 24 bytes each, then ENCRST of RESET_BYTES
theorem test_ledframe :
    pseudoLedframe inst 0x20000000#32 [(0, 0, 0), (1, 2, 3)]
      = [.issue (.encpx 0x20000000#32 0 0 0), .issue (.encpx 0x20000018#32 1 2 3),
        .issue (.encrst 0x20000030#32 64#32)] := by decide
-- an operand of 2^32 has no word (log entry 26)
theorem test_ledframe_to_the_top :
    pseudoLedframe inst 0xFFFFFFE8#32 [(1, 2, 3)] = [.issue (.encpx 0xFFFFFFE8#32 1 2 3)]
      ∧ pseudoLedframe { inst with resetBytes := 2 ^ 32 } 0#32 [(1, 2, 3)] = [.issue (.encpx 0#32 1 2 3)] := by decide

/-- What one turn of a pseudo-operation leaves to issue. -/
def left (who : Turn) (todo : List PseudoStep) (s : State) : Option (List PseudoStep) :=
  match pseudoTurn who ⟨todo, s⟩ with
  | .next y => some y.todo
  | .fault _ => none
  | .refused _ => none

-- R102: a wait repeats its query until bit 0 (TCF), or DONE or ERR, is 1
theorem test_wait_tc : left .host (pseudoWaitTc 1#8) (active1 1#16) = some (pseudoWaitTc 1#8)
    ∧ left .host (pseudoWaitTc 1#8) (active1 0#16) = some [] := by decide
theorem test_wait_ck : left .host pseudoWaitCk done1 = some pseudoWaitCk
    ∧ left .host pseudoWaitCk { base with done := true } = some []
    ∧ left .host pseudoWaitCk { base with err := true } = some [] := by decide
-- R102: an accepted command leaves the rest, a rejected one (EN of channel 2, VB36) nothing
theorem test_pseudo_stops_at_a_rejection :
    left .host (pseudoCkabort inst) base = some [.issue .ckcancel]
      ∧ left .host [.issue (.en 2#8), .issue .ckcancel] base = some [] := by decide
-- R102, R133: the pixel that crosses the top is issued and answers E_RANGE, and the frame stops
theorem test_ledframe_past_the_top :
    left .host (pseudoLedframe inst 0xFFFFFFF0#32 [(1, 2, 3)]) base = some []
      ∧ pseudoLedframe inst 0xFFFFFFF0#32 [(1, 2, 3)] = [.issue (.encpx 0xFFFFFFF0#32 1 2 3)]
      ∧ answerOf (exec (.encpx 0xFFFFFFF0#32 1 2 3) base) = some (some ⟨9#4, 0#64⟩) := by decide
-- R102: another agent steps in between; R280: RST abandons a store command, and the host has no response to go on from
theorem test_pseudo_other_agents :
    left (.other 0x8001#16) (pseudoWaitTc 1#8) (active1 1#16) = some (pseudoWaitTc 1#8)
      ∧ left (.other 0x8200#16) [.issue .order] { base with store := some ⟨0#32, [1#8], 0⟩ } = some [] := by decide

/-! ### Witnesses: concrete states and operands that meet the hypotheses of each obligation, clause by clause -/

/-- Channel 0 of `c` running, memory given. -/
def moving (c : Channel) (m : Memory) : State := { two inst c Channel.atReset with mem := m }

/-- A state with a store command in progress at `a`. -/
def storing (a : Addr) (n : Nat) : State := { base with store := some ⟨a, [], n⟩ }

/-- An instance whose byte 0x20000001 is not mapped and whose byte 0x40007408 does not store. -/
def instHole : Params := { inst with holes := [⟨0x20000001, 1⟩], sinks := [⟨0x40007408, 1⟩] }

theorem witness_StepRunsTheDecodedOperation :
    cmdIs 0x24_00_0000_00000000_00000000_00000000#128 .order
      ∧ { base with sched := [.cmd 0x24000000000000000000000000000000#128] }.store = none
      ∧ labelIs 0x8001#16 (.req 1#8) := by decide
theorem witness_EncodeOfDecode :
    cmdIs 0x01_FF_003F_00000000_00000000_00000000#128 (.cfg 255#8 ⟨true, true, true, true, 3#2⟩)
      ∧ labelIs 0x80FF#16 (.req 255#8) := by decide
theorem witness_EveryWordIsACommandOrIllegal :
    commandRows.all (fun r => !r.selects 0#128) = true
      ∧ commandRows.all (fun r => !r.selects 0x01000048000000000000000000000000#128) = true
      ∧ commandRows.any (fun r => r.selects 0x0100003F000000000000000000000000#128) = true
      ∧ base.store = none := by decide
theorem witness_HostWaitsForItsStoreCommand :
    { storing 0#32 1 with sched := [.cmd 0#128] }.store = some ⟨0#32, [], 1⟩
      ∧ { storing 0#32 1 with sched := [.access (.ld8 0#32)] }.store = some ⟨0#32, [], 1⟩ := by decide
theorem witness_UnscheduledStepsAreTheFsmsOwn :
    (active1 0#16).sched = [] ∧ (active1 0#16).st = .active ∧ (active1 0#16).kChan.tcf = true
      ∧ (active1 1#16).sched = [] ∧ (active1 1#16).st = .active ∧ (active1 1#16).kChan.tcf = false
      ∧ reload1.sched = [] ∧ reload1.st = .reloadNext ∧ done1.sched = [] ∧ done1.st = .done
      ∧ base.sched = [] ∧ base.st = .idle ∧ base.store = none := by decide
theorem witness_HostStoreAndLoad :
    Memory.wf base.mem ∧ mapped base.par 0xFFFFFFFF = true ∧ keeps base.par 0xFFFFFFFF = true
      ∧ (∀ j < 2, mapped base.par (0xFFFFFFFE + j) = true ∧ keeps base.par (0xFFFFFFFE + j) = true)
      ∧ (∀ j < 2, mapped base.par (0 + j) = true ∧ keeps base.par (0 + j) = true) := by decide
theorem witness_LedDecInvertsTheEncoder :
    inst.longHigh ≠ inst.shortHigh
      ∧ (ledEnc inst 0x80#8).length = 8 ∧ (∀ b ∈ ledEnc inst 0x80#8, b = inst.longHigh ∨ b = inst.shortHigh)
      ∧ (List.replicate 8 0#8).length = 8
      ∧ (∃ b ∈ List.replicate 8 0#8, b ≠ inst.longHigh ∧ b ≠ inst.shortHigh) := by
  refine ⟨by decide, by decide, ?_, by decide, 0#8, by decide, by decide, by decide⟩
  intro b hb
  simp only [ledEnc, List.mem_map] at hb
  obtain ⟨i, -, rfl⟩ := hb
  split
  · exact .inl rfl
  · exact .inr rfl
theorem witness_LedFrameHasItsLengthAndTail :
    ([(0, 0, 0), (1, 2, 3)] : List (Byte × Byte × Byte))[1]? = some (1, 2, 3) := by decide
theorem witness_PeriodAnswersTheTruncatedQuotient :
    (1#32 ≠ 0#32 ∧ 0xFFFFFFFF#32 ≠ 0#32) ∧ (0#32 = 0#32 ∨ 1#32 = 0#32) ∧ (1#32 = 0#32 ∨ 0#32 = 0#32) := by decide
theorem witness_StoreCommandsBegin :
    (0xFFFFFFF8#32).toNat + 8 ≤ 2 ^ 32 ∧ 2 ^ 32 < (0xFFFFFFF9#32).toNat + 8
      ∧ (0xFFFFFFE8#32).toNat + 24 ≤ 2 ^ 32 ∧ 2 ^ 32 < (0xFFFFFFE9#32).toNat + 24
      ∧ (0xFFFFFFFF#32).toNat + (1#32).toNat ≤ 2 ^ 32 ∧ 1#32 ≠ 0#32
      ∧ (0x00000001#32).toNat + (0xFFFFFFFF#32).toNat ≤ 2 ^ 32 ∧ 0xFFFFFFFF#32 ≠ 0#32
      ∧ 2 ^ 32 < (0xFFFFFFFF#32).toNat + (2#32).toNat := by decide
theorem witness_StoreCommandsLandInMemory :
    Memory.wf base.mem ∧ 1 ≤ (ledEnc inst 1#8).length ∧ (0xFFFFFFF8#32).toNat + (ledEnc inst 1#8).length ≤ 2 ^ 32
      ∧ (∀ i < 8, mapped inst ((0xFFFFFFF8#32).toNat + i) = true ∧ keeps inst ((0xFFFFFFF8#32).toNat + i) = true)
      ∧ 1 ≤ (ledPixel inst 1#8 2#8 3#8).length
      ∧ (0xFFFFFFE8#32).toNat + (ledPixel inst 1#8 2#8 3#8).length ≤ 2 ^ 32
      ∧ (∀ i < 24, mapped inst ((0xFFFFFFE8#32).toNat + i) = true ∧ keeps inst ((0xFFFFFFE8#32).toNat + i) = true)
      ∧ 1 ≤ (resetPulse 1).length ∧ (0xFFFFFFFF#32).toNat + (resetPulse 1).length ≤ 2 ^ 32
      ∧ mapped inst ((0xFFFFFFFF#32).toNat + 0) = true ∧ keeps inst ((0xFFFFFFFF#32).toNat + 0) = true := by decide
theorem witness_DmaCommandsRejectAMissingChannel :
    ¬ (2#8).toNat < base.nCh ∧ ¬ (255#8).toNat < base.nCh := by decide
theorem witness_CfgWritesTheFields :
    (1#8).toNat < armed0.nCh ∧ (armed0.chan 1#8).en = false ∧ (armed0.chan 1#8).av = false
      ∧ (0#8).toNat < armed0.nCh ∧ (armed0.chan 0#8).en = false
      ∧ ((legalFields false true).width = 0#2 ∧ (legalFields false true).dir = false
        ∧ (legalFields false true).incSrc = true ∧ (legalFields false true).incDst = false)
      ∧ (armed0.chan 0#8).av = true ∧ (legalFields false true).width ≠ (armed0.chan 0#8).cfg.width
      ∧ (legalFields true true).width = (armed0.chan 0#8).cfg.width := by decide
theorem witness_CfgRejections :
    (1#8).toNat < (active1 1#16).nCh ∧ ((active1 1#16).chan 1#8).en = true ∧ ((active1 1#16).chan 0#8).en = false
      ∧ (cfgOfBits 0x0A#6).width = 2#2 ∧ (cfgOfBits 0x0B#6).width = 3#2 ∧ (cfgOfBits 0x0C#6).dir = true
      ∧ (cfgOfBits 0x00#6).incSrc = false ∧ (cfgOfBits 0x18#6).incDst = true := by decide
theorem witness_ArmLoadsTheDescriptor :
    (0#8).toNat < armed0.nCh ∧ (armed0.chan 0#8).en = false ∧ (armed0.chan 0#8).cv = true
      ∧ 1 ≤ (65535#32).toNat ∧ (65535#32).toNat ≤ 65535
      ∧ (0xFFFE0002#32).toNat % elemSize (armed0.chan 0#8).cfg = 0
      ∧ (0x40007408#32).toNat % elemSize (armed0.chan 0#8).cfg = 0
      ∧ (0xFFFE0002#32).toNat + (65535#32).toNat * elemSize (armed0.chan 0#8).cfg ≤ 2 ^ 32
      ∧ (0xFFFFFFFE#32).toNat + (1#32).toNat * elemSize (armed0.chan 0#8).cfg ≤ 2 ^ 32 := by decide
theorem witness_ArmRejections :
    (1#8).toNat < (active1 1#16).nCh ∧ ((active1 1#16).chan 1#8).en = true
      ∧ ((active1 1#16).chan 0#8).en = false ∧ ((active1 1#16).chan 0#8).cv = false
      ∧ (armed0.chan 0#8).en = false ∧ (armed0.chan 0#8).cv = true ∧ elemSize (armed0.chan 0#8).cfg = 2
      ∧ 65535 < (65536#32).toNat ∧ ¬ (1#32 = 0#32 ∨ 65535 < (1#32).toNat)
      ∧ (0x20000001#32).toNat % 2 ≠ 0 ∧ (0x40007409#32).toNat % 2 ≠ 0
      ∧ ¬ ((0xFFFFFFFE#32).toNat % 2 ≠ 0 ∨ (0x40007408#32).toNat % 2 ≠ 0)
      ∧ 2 ^ 32 < (0xFFFFFFFE#32).toNat + (2#32).toNat * 2 := by decide
theorem witness_EnSetsTheGateAlone : (0#8).toNat < base.nCh ∧ (1#8).toNat < base.nCh := by decide
theorem witness_DisClearsTheGateAndFreesTheFsm :
    (1#8).toNat < (active1 1#16).nCh ∧ 1#8 = (active1 1#16).par.chK ∧ 0#8 ≠ (active1 1#16).par.chK := by decide
theorem witness_ChannelQueriesAnswer :
    (1#8).toNat < (active1 1#16).nCh ∧ ((active1 1#16).chan 1#8).en = true ∧ ((active1 1#16).chan 1#8).cnt ≠ 0#16
      ∧ ((active1 0#16).chan 1#8).cnt = 0#16 ∧ (armed0.chan 0#8).en = false := by decide
theorem witness_ClrtcClearsTheFlag :
    (1#8).toNat < (active1 0#16).nCh ∧ 1#8 = (active1 0#16).par.chK ∧ (active1 0#16).st ≠ .idle
      ∧ 0#8 ≠ (active1 0#16).par.chK ∧ ready1.st = .idle ∧ 1#8 = ready1.par.chK := by decide
theorem witness_ReqMovesOneElement :
    Serves (moving (runningChan true false 0xFFFFFFFC#32 2#16) []) 0#8
      ∧ ((moving (runningChan true false 0xFFFFFFFC#32 2#16) []).chan 0#8).cnt ≠ 1#16
      ∧ Serves (active1 2#16) 1#8 ∧ ((active1 2#16).chan 1#8).cnt ≠ 1#16 := by decide
theorem witness_LastRequestCompletesAOneShot :
    Serves (moving (runningChan true false 0xFFFFFFFE#32 1#16) []) 0#8
      ∧ ((moving (runningChan true false 0xFFFFFFFE#32 1#16) []).chan 0#8).cnt = 1#16
      ∧ ((moving (runningChan true false 0xFFFFFFFE#32 1#16) []).chan 0#8).cfg.circ = false := by decide
theorem witness_LastRequestWrapsACircular :
    Serves (moving (runningChan false true 0xFFFFFFFF#32 1#16) []) 0#8
      ∧ ((moving (runningChan false true 0xFFFFFFFF#32 1#16) []).chan 0#8).cnt = 1#16
      ∧ ((moving (runningChan false true 0xFFFFFFFF#32 1#16) []).chan 0#8).cfg.circ = true := by decide
theorem witness_ReqWritesItsDestinationOnly :
    Memory.wf [(0x20000000, 1#8)]
      ∧ Serves (moving (runningChan true false 0x20000000#32 1#16) [(0x20000000, 1#8)]) 0#8
      ∧ keeps inst (0x40007408 + 1) = true
      ∧ Serves (two instHole (runningChan false false 0x20000000#32 1#16) Channel.atReset) 0#8
      ∧ keeps instHole (0x40007408 + 0) = false := by decide
theorem witness_UnservedRequestsAreDropped :
    (0#8).toNat < armed0.nCh ∧ (armed0.chan 0#8).en = false ∧ ((active1 0#16).chan 1#8).cnt = 0#16 := by decide
theorem witness_UnmappedAccessesAreStuck :
    let s := two instHole (runningChan true false 0x20000000#32 1#16) Channel.atReset
    (0#8).toNat < s.nCh ∧ (s.chan 0#8).en = true ∧ (s.chan 0#8).cnt ≠ 0#16 ∧ 1 < elemSize (s.chan 0#8).cfg
      ∧ mapped s.par ((s.chan 0#8).cur.toNat + 1) = false
      ∧ { storing 0x20000001#32 1 with par := instHole }.store = some ⟨0x20000001#32, [], 1⟩
      ∧ mapped instHole (0x20000001#32).toNat = false := by decide
theorem witness_OneShotRunCountsDown :
    let s := moving (runningChan true false 0xFFFFFFFC#32 2#16) []
    let c := s.chan 0#8
    (0#8).toNat < s.nCh ∧ c.en = true ∧ c.cfg.circ = false ∧ c.tcf = false ∧ 1 ≤ c.cnt.toNat ∧ c.cur = c.src
      ∧ (∀ i < c.cnt.toNat * elemSize c.cfg, mapped s.par (c.src.toNat + i) = true)
      ∧ (∀ i < elemSize c.cfg, mapped s.par (c.dst.toNat + i) = true) ∧ 2 ≤ c.cnt.toNat := by decide
theorem witness_CircularRunCycles :
    let s := moving (runningChan false true 0xFFFFFFFE#32 2#16) []
    let c := s.chan 0#8
    (0#8).toNat < s.nCh ∧ c.en = true ∧ c.cfg.circ = true ∧ 1 ≤ c.cnt.toNat ∧ c.cntReload = c.cnt ∧ c.cur = c.src
      ∧ (∀ i < c.cnt.toNat * elemSize c.cfg, mapped s.par (c.src.toNat + i) = true)
      ∧ (∀ i < elemSize c.cfg, mapped s.par (c.dst.toNat + i) = true) := by decide
theorem witness_RequestsOnTwoChannelsCommute :
    let s := two inst (runningChan false false 0x20000000#32 2#16)
      { runningChan true true 0x20000100#32 2#16 with dst := 0x4000740A#32 }
    0#8 ≠ 1#8 ∧ Memory.wf s.mem ∧ Serves s 0#8 ∧ Serves s 1#8
      ∧ ∀ i < elemSize (s.chan 0#8).cfg, ∀ j < elemSize (s.chan 1#8).cfg,
        (s.chan 0#8).dst.toNat + i ≠ (s.chan 1#8).dst.toNat + j
          ∧ (s.chan 0#8).dst.toNat + i ≠ (s.chan 1#8).cur.toNat + j
          ∧ (s.chan 1#8).dst.toNat + j ≠ (s.chan 0#8).cur.toNat + i := by decide
theorem witness_CkstartBeginsATransfer :
    ready1.par.chK.toNat < ready1.nCh ∧ ready1.st = .idle ∧ ready1.kChan.en = false ∧ ready1.kChan.cv = true
      ∧ ready1.kChan.av = true ∧ ready1.kChan.cfg.width = 0#2 ∧ ready1.kChan.cfg.circ = false
      ∧ ready1.kChan.tcf = false ∧ 16#32 ≠ 0#32
      ∧ ready1.kChan.src.toNat + (0xDFFFEFF0#32).toNat + (16#32).toNat ≤ 2 ^ 32 := by decide
theorem witness_CkstartRejections :
    (active1 1#16).st ≠ .idle
      ∧ (base.st = .idle ∧ base.kChan.en = false ∧ base.kChan.cv = false)
      ∧ (let c := armedChan true false 0x20001000#32 1#16; c.en = false ∧ c.cv = true ∧ c.av = true ∧ c.cfg.width ≠ 0#2)
      ∧ (let c := { armedChan false false 0x20001000#32 1#16 with tcf := true }
        c.cv = true ∧ c.av = true ∧ c.cfg.width = 0#2 ∧ c.cfg.circ = false ∧ c.tcf = true)
      ∧ (ready1.st = .idle ∧ ready1.kChan.en = false ∧ ready1.kChan.cv = true ∧ ready1.kChan.av = true
        ∧ ready1.kChan.cfg.width = 0#2 ∧ ready1.kChan.cfg.circ = false ∧ ready1.kChan.tcf = false ∧ 16#32 ≠ 0#32
        ∧ 2 ^ 32 < ready1.kChan.src.toNat + (0xDFFFEFF1#32).toNat + (16#32).toNat) := by decide
theorem witness_ServiceTakesTheCompletion :
    let last := fsm (kChan 0x2000100C#32 0#16 true) .active 2#32 2#16
    (active1 0#16).par.chK.toNat < (active1 0#16).nCh ∧ (active1 0#16).st = .active ∧ (active1 0#16).kChan.tcf = true
      ∧ (active1 0#16).chunk.toNat < (active1 0#16).rem.toNat
      ∧ last.st = .active ∧ last.kChan.tcf = true ∧ last.chunk.toNat = last.rem.toNat := by decide
theorem witness_ReloadWritesTheLengthRegister :
    reload1.par.chK.toNat < reload1.nCh ∧ reload1.st = .reloadNext := by decide
theorem witness_FinishSignalsCompletion : done1.par.chK.toNat < done1.nCh ∧ done1.st = .done := by decide
theorem witness_BuserrDropsTheFrame :
    (active1 1#16).par.chK.toNat < (active1 1#16).nCh ∧ (active1 1#16).st = .active ∧ reload1.st = .reloadNext
      ∧ base.st = .idle ∧ done1.st = .done := by decide
theorem witness_CkcancelResetsTheCursor :
    done1.par.chK.toNat < done1.nCh ∧ done1.st ≠ .idle ∧ base.st = .idle := by decide
theorem witness_FsmStepsNotEnabledAreRefused :
    base.st ≠ .active ∧ (active1 1#16).kChan.tcf = false ∧ (active1 1#16).st ≠ .reloadNext
      ∧ (active1 1#16).st ≠ .done ∧ ¬ (2#8).toNat < base.nCh := by decide
theorem witness_Inv_base : Inv base := ⟨by decide, by decide, by decide, by decide, by decide⟩
theorem witness_Inv_armed0 : Inv armed0 := ⟨by decide, by decide, by decide, by decide, by decide⟩
theorem witness_Inv_ready1 : Inv ready1 := ⟨by decide, by decide, by decide, by decide, by decide⟩
theorem witness_Inv_active_last : Inv (active1 0#16) := ⟨by decide, by decide, by decide, by decide, by decide⟩
theorem witness_Inv_active_one : Inv (active1 1#16) := ⟨by decide, by decide, by decide, by decide, by decide⟩
theorem witness_Inv_active_fresh : Inv (active1 4#16) := ⟨by decide, by decide, by decide, by decide, by decide⟩
theorem witness_Inv_reload1 : Inv reload1 := ⟨by decide, by decide, by decide, by decide, by decide⟩
theorem witness_Inv_done1 : Inv done1 := ⟨by decide, by decide, by decide, by decide, by decide⟩
theorem witness_Inv_storing : Inv (storing 0xFFFFFFFF#32 1) := ⟨by decide, by decide, by decide, by decide, by decide⟩
theorem witness_ChunkedTransferConservesItsTotals :
    Inv reload1 ∧ reload1.st ≠ .idle ∧ see (exec .reload reload1) State.st = some .active :=
  ⟨witness_Inv_reload1, by decide⟩
theorem witness_CompleteChunkedRun :
    let s := { ready1 with sched := chunkInputs 1#8 4 5 5 }
    Inv s ∧ s.st = .idle ∧ s.kChan.en = false ∧ s.kChan.av = true ∧ s.kChan.cfg.width = 0#2
      ∧ s.kChan.cfg.circ = false ∧ s.kChan.tcf = false ∧ 5#32 ≠ 0#32
      ∧ s.kChan.src.toNat + (0xDFFFEFFB#32).toNat + (5#32).toNat ≤ 2 ^ 32
      ∧ (∀ i < (5#32).toNat, mapped s.par (s.kChan.src.toNat + (0xDFFFEFFB#32).toNat + i) = true
        ∧ s.kChan.dst.toNat ≠ s.kChan.src.toNat + (0xDFFFEFFB#32).toNat + i)
      ∧ mapped s.par s.kChan.dst.toNat = true
      ∧ s.sched = chunkInputs s.par.chK s.par.cap.toNat (5#32).toNat (5#32).toNat ++ [] :=
  ⟨⟨by decide, by decide, by decide, by decide, by decide⟩, by decide⟩
theorem witness_RejectionsChangeNothing :
    Instr.isCommand (.en 2#8) = true ∧ answerOf (exec (.en 2#8) base) = some (some ⟨2#4, 0#64⟩) := by decide
theorem witness_ExecNeverFaults : stops (exec (.req 2#8) base) = true ∧ stops (exec .service base) = true := by decide
theorem witness_DescriptorRegistersHaveTheirWriters :
    see (exec (.cfg 0#8 (legalFields false false)) armed0) (fun t => ((t.chan 0#8).cfg, (t.chan 0#8).av))
        = some (legalFields false false, false) ∧ (armed0.chan 0#8).av = true
      ∧ see (exec (.arm 0#8 2#32 4#32 6#32) armed0) (fun t => (t.chan 0#8).src) = some 2#32 := by decide
theorem witness_WorkingRegistersHaveTheirWriters :
    see (exec (.req 1#8) (active1 1#16)) (fun t => (t.kChan.cur, t.kChan.cnt, t.kChan.tcf))
        = some (0x20001006#32, 0#16, true)
      ∧ see (exec .service (active1 0#16)) (fun t => t.kChan.tcf) = some false
      ∧ see (exec .reload reload1) (fun t => t.kChan.cnt) = some 4#16
      ∧ see (exec .finish done1) (fun t => t.kChan.en) = some false := by decide
theorem witness_FsmRegistersHaveTheirWriters :
    see (exec .buserr reload1) (fun t => (t.rem, t.chunk, t.err)) = some (0#32, 0#16, true)
      ∧ see (exec .finish done1) (fun t => (t.done, t.pulses)) = some (true, [.chunkDone])
      ∧ see (exec .reload reload1) (fun t => t.pulses) = some [.chunkContinue] := by decide
theorem witness_FsmTakesOnlyTheListedTransitions :
    see (exec .service (active1 0#16)) State.st = some .reloadNext ∧ see (exec .finish done1) State.st = some .idle
      ∧ see (exec .buserr reload1) State.st = some .idle ∧ see (exec (.dis 1#8) (active1 3#16)) State.st = some .idle := by
  decide
theorem witness_SharedRegistersHaveOneWriter :
    Inv (active1 1#16) ∧ (active1 1#16).st ≠ .idle ∧ Instr.isCommand (.en 1#8) = true
      ∧ Instr.en 1#8 ≠ .dis (active1 1#16).par.chK ∧ Instr.en 1#8 ≠ .ckcancel
      ∧ see (exec (.en 1#8) (active1 1#16)) (fun _ => ()) = some () :=
  ⟨witness_Inv_active_one, by decide⟩
theorem witness_DisabledChannelMovesNothing :
    see (exec (.req 0#8) armed0) id = some armed0 ∧ (armed0.chan 0#8).en = false ∧ Instr.req 0#8 ≠ .en 0#8
      ∧ 0#8 ≠ armed0.par.chK := by decide
theorem witness_OnlyStoresAndMovesReachMemory :
    Memory.wf [(0x20000000, 1#8)]
      ∧ see (exec (.req 0#8) (moving (runningChan false false 0x20000000#32 1#16) [(0x20000000, 1#8)])) State.mem
        = some [(0x20000000, 1#8), (0x40007408, 1#8)] := by decide
theorem witness_EveryStepKeepsTheInvariant :
    Inv (active1 0#16) ∧ see (step (active1 0#16)) State.st = some .reloadNext :=
  ⟨witness_Inv_active_last, by decide⟩
theorem witness_StepKeepsTheInstance : see (step base) id = some base := by decide

end Sys2Proof.Tests
end

/-! The family of spec/00_scope.md: what a step runs (O7, O9), the host's own accesses (O11), what a rejection leaves
unchanged (O49), which operations stop (O50), and what no step changes (O60). -/

namespace Sys2Proof.Machine

/-! ### What is due and what a step does -/

/-- Taking off the entry that stands first. -/
theorem State.popInput_of_sched {s : State} {x : Input} {rest : List Input} (h : s.sched = x :: rest) :
    s.popInput = { s with sched := rest } := by simp [State.popInput, h]

theorem step_of_due_run {s u : State} {i : Instr} (h : due s = .run i u) : step s = exec i u := by simp [step, h]

theorem step_of_due_answered {s : State} {r : Result} (h : due s = .answered r) : step s = r := by simp [step, h]

/-- An entry of the host's goes ahead when no store command is in progress (R12). -/
theorem hostTurn_of_free {s : State} (h : s.store = none) (go : Due) : hostTurn s go = go := by
  simp [hostTurn, State.hostBusy, h]

/-- An entry of the host's waits while a store command is in progress (R12, R131). -/
theorem hostTurn_of_busy {s : State} {j : StoreJob} (h : s.store = some j) (go : Due) :
    hostTurn s go = .answered (hostByteStep s) := by
  simp [hostTurn, State.hostBusy, h]

/-- The host's turn is the next byte of its store command or the entry itself. -/
theorem hostTurn_cases (s : State) (go : Due) :
    hostTurn s go = .answered (hostByteStep s) ∨ hostTurn s go = go := by
  cases h : s.store with
  | none => exact .inr (hostTurn_of_free h go)
  | some j => exact .inl (hostTurn_of_busy h go)

theorem due_of_cmd_decoded {s : State} {w : CmdWord} {rest : List Input} {i : Instr} (h : s.sched = .cmd w :: rest)
    (hd : decodeCmd w = .ok i) : due s = hostTurn s (.run i s.popInput) := by
  simp only [due, h, hd]

theorem due_of_cmd_busy {s : State} {w : CmdWord} {rest : List Input} {j : StoreJob} (h : s.sched = .cmd w :: rest)
    (hs : s.store = some j) : due s = .answered (hostByteStep s) := by
  simp only [due, h, hostTurn_of_busy hs]

theorem due_of_access {s : State} {a : HostAccess} {rest : List Input} (h : s.sched = .access a :: rest) :
    due s = hostTurn s (.answered (hostAccess a s.popInput)) := by
  simp only [due, h]

theorem due_of_evt_decoded {s : State} {w : LabelWord} {rest : List Input} {i : Instr} (h : s.sched = .evt w :: rest)
    (hd : decodeLabel w = .ok i) : due s = .run i s.popInput := by
  simp only [due, h, hd]

/-- A command word that decodes is run once the host's last command has responded (R12, R103). -/
theorem step_of_cmd {s : State} {w : CmdWord} {rest : List Input} {i : Instr} (h : s.sched = .cmd w :: rest)
    (hs : s.store = none) (hd : decodeCmd w = .ok i) : step s = exec i { s with sched := rest } := by
  have hdue : due s = .run i s.popInput := (due_of_cmd_decoded h hd).trans (hostTurn_of_free hs _)
  rw [step_of_due_run hdue, State.popInput_of_sched h]

/-- A label word that decodes is run at its place, whatever the host is doing (R98, R131). -/
theorem step_of_evt {s : State} {w : LabelWord} {rest : List Input} {i : Instr} (h : s.sched = .evt w :: rest)
    (hd : decodeLabel w = .ok i) : step s = exec i { s with sched := rest } := by
  rw [step_of_due_run (due_of_evt_decoded h hd), State.popInput_of_sched h]

theorem inputOfWord_cmd (w : CmdWord) : inputOfWord 128 w.toNat = .cmd w := by simp [inputOfWord]

theorem inputOfWord_evt (w : LabelWord) : inputOfWord 16 w.toNat = .evt w := by simp [inputOfWord]

/-- Settles O7: the head of the schedule is read by `step_of_cmd` or `step_of_evt`, and `withFetchWord` puts the word
there with no store command in progress. -/
theorem stepRunsTheDecodedOperation : Obligations.StepRunsTheDecodedOperation := by
  intro s rest i
  refine ⟨fun w => step_of_cmd, fun w => step_of_evt, fun w hd => ?_, fun w hd => ?_⟩
  · exact step_of_cmd (s := s.withFetchWord 128 w.toNat)
      (congrArg (· :: s.sched) (inputOfWord_cmd w)) rfl hd
  · exact step_of_evt (s := s.withFetchWord 16 w.toNat) (congrArg (· :: s.sched) (inputOfWord_evt w)) hd

/-- Settles O9: the entry waits, by `hostTurn_of_busy`. -/
theorem hostWaitsForItsStoreCommand : Obligations.HostWaitsForItsStoreCommand := by
  intro s j rest hs
  refine ⟨fun w h => step_of_due_answered ?_, fun a h => step_of_due_answered ?_⟩
  · exact due_of_cmd_busy h hs
  · exact (due_of_access h).trans (hostTurn_of_busy hs _)

/-! ### The host's own loads and stores -/

/-- A host access within the address space to mapped bytes has its effect (R66). -/
theorem hostAccess_of_enabled {s : State} {a : HostAccess} {addr : Addr} {n : Nat} (hr : accessRange a = (addr, n))
    (htop : addr.toNat + n ≤ addrSpace) (hm : accessible s.par addr.toNat n = true) :
    hostAccess a s = .next (accessEffect s a) := by
  simp [hostAccess, hr, Nat.not_lt.mpr htop, hm]

/-- A host access that answers a next state had its effect. -/
theorem hostAccess_next {s t : State} {a : HostAccess} (h : hostAccess a s = .next t) : t = accessEffect s a := by
  simp only [hostAccess] at h
  split_ifs at h
  cases h; rfl

/-- `MemWrite` changes memory alone: with the old memory put back, the state is the old one. -/
theorem memWrite_restore (s : State) (a n : Nat) (v : BitVec 16) : { memWrite s a n v with mem := s.mem } = s := by
  rw [memWrite_eq]

/-- `MemWrite` leaves bits 7..0 at the lower address (R61). -/
theorem memWrite_byte_low {s : State} {a n : Nat} {v : BitVec 16} (h : Memory.wf s.mem) (ha : a < addrSpace)
    (hk : keeps s.par a = true) : (memWrite s a n v).byte a = v.extractLsb' 0 8 := by
  unfold memWrite
  split
  · rw [State.byte_writeByte_other (State.writeByte_wf h ha) (by omega), State.byte_writeByte_same h hk]
  · exact State.byte_writeByte_same h hk

/-- A two-byte `MemWrite` leaves bits 15..8 at the higher address (R61). -/
theorem memWrite_byte_high {s : State} {a : Nat} {v : BitVec 16} (h : Memory.wf s.mem) (ha : a < addrSpace)
    (hk : keeps s.par (a + 1) = true) : (memWrite s a 2 v).byte (a + 1) = v.extractLsb' 8 8 :=
  State.byte_writeByte_same (State.writeByte_wf h ha) (by simpa using hk)

/-- `MemRead` of one byte is the byte with zeros above it (R61). -/
theorem memRead_one (s : State) (a : Nat) : memRead s a 1 = (s.byte a).setWidth 16 := by
  simp [memRead, BitVec.setWidth_eq_append]

/-- `MemRead` of two bytes has the byte at the lower address in bits 7..0 (R61). -/
theorem memRead_two (s : State) (a : Nat) : memRead s a 2 = s.byte (a + 1) ++ s.byte a := rfl

/-- One-byte host accesses to a mapped location that stores. -/
theorem hostAccess_byte {s : State} {a : Addr} (hwf : Memory.wf s.mem) (hm : mapped s.par a.toNat = true)
    (hk : keeps s.par a.toNat = true) :
    (∀ v : Byte, ∃ t, hostAccess (.st8 a v) s = .next t ∧ t.byte a.toNat = v
      ∧ (∀ b, b ≠ a.toNat → t.byte b = s.byte b) ∧ { t with mem := s.mem } = s)
    ∧ hostAccess (.ld8 a) s = .next { s with hostData := (s.byte a.toNat).setWidth 16 } := by
  have ha : a.toNat < addrSpace := mapped_lt hm
  have hacc : accessible s.par a.toNat 1 = true := accessible_spec.mpr fun j hj => by
    obtain rfl : j = 0 := by omega
    exact hm
  refine ⟨fun v => ⟨_, hostAccess_of_enabled (a := .st8 a v) rfl ha hacc, ?_, fun b hb => ?_,
    memWrite_restore ..⟩, ?_⟩
  · have hv : (v.setWidth 16).extractLsb' 0 8 = v := by simp [← BitVec.setWidth_eq_extractLsb']
    exact (memWrite_byte_low hwf ha hk).trans hv
  · exact memWrite_byte_other hwf ha hb (by omega)
  · rw [hostAccess_of_enabled (a := .ld8 a) rfl ha hacc, accessEffect, memRead_one]

/-- Two-byte host accesses to mapped locations that store. -/
theorem hostAccess_pair {s : State} {a : Addr} (hwf : Memory.wf s.mem)
    (h : ∀ j < 2, mapped s.par (a.toNat + j) = true ∧ keeps s.par (a.toNat + j) = true) :
    (∀ v : BitVec 16, ∃ t, hostAccess (.st16 a v) s = .next t
      ∧ t.byte a.toNat = v.extractLsb' 0 8 ∧ t.byte (a.toNat + 1) = v.extractLsb' 8 8
      ∧ (∀ b, b ≠ a.toNat → b ≠ a.toNat + 1 → t.byte b = s.byte b) ∧ { t with mem := s.mem } = s)
    ∧ hostAccess (.ld16 a) s = .next { s with hostData := s.byte (a.toNat + 1) ++ s.byte a.toNat } := by
  obtain ⟨hlow, hklow⟩ := h 0 (by omega)
  obtain ⟨hhigh, hkhigh⟩ := h 1 (by omega)
  have ha : a.toNat < addrSpace := mapped_lt hlow
  have htop : a.toNat + 1 < addrSpace := mapped_lt hhigh
  have hacc : accessible s.par a.toNat 2 = true := accessible_spec.mpr fun j hj => (h j hj).1
  refine ⟨fun v => ⟨_, hostAccess_of_enabled (a := .st16 a v) rfl htop hacc, memWrite_byte_low hwf ha hklow,
    memWrite_byte_high hwf ha hkhigh, fun b hb hb' => memWrite_byte_other hwf ha hb fun _ => hb',
    memWrite_restore ..⟩, ?_⟩
  rw [hostAccess_of_enabled (a := .ld16 a) rfl htop hacc, accessEffect, memRead_two]

/-- Settles O11, one access size at a time. -/
theorem hostStoreAndLoad : Obligations.HostStoreAndLoad :=
  fun _ _ hwf => ⟨hostAccess_byte hwf, hostAccess_pair hwf⟩

/-! ### How a command answers -/

/-- How a command ends (R13, R243): rejected with the response as its only effect, or in a next state where a response,
if there is one yet, has status 0. -/
def AnswersAsCommand (s : State) (r : Result) : Prop :=
  ∃ t, r = .next t ∧ (RejectedTo s t ∨ ∀ a, t.rsp = some a → a.status = 0#4)

theorem AnswersAsCommand.of_reject {s : State} {c : Status} (h : c ≠ .ok) : AnswersAsCommand s (reject s c) :=
  ⟨_, rfl, .inl ⟨c, h, rfl⟩⟩

theorem AnswersAsCommand.of_respond (s t : State) (d : BitVec 64) : AnswersAsCommand s (respond t d) := by
  refine ⟨_, rfl, .inr fun a ha => ?_⟩
  cases ha; rfl

theorem AnswersAsCommand.of_ite {s : State} {p : Prop} [Decidable p] {x y : Result} (hx : AnswersAsCommand s x)
    (hy : AnswersAsCommand s y) : AnswersAsCommand s (if p then x else y) := by
  split
  · exact hx
  · exact hy

theorem AnswersAsCommand.of_withChannel {s : State} {ch : ChIx} {body : Channel → Result}
    (h : ∀ c, AnswersAsCommand s (body c)) : AnswersAsCommand s (withChannel s ch body) :=
  .of_ite (h _) (.of_reject (by decide))

/-- The acceptance of a store command is rejected, or answered, or leaves the port without a response (R131). -/
theorem AnswersAsCommand.of_beginStore (s : State) (addr : Addr) (bytes : List Byte) (zeros : Nat) :
    AnswersAsCommand s (beginStore s addr bytes zeros) :=
  .of_ite (.of_reject (by decide)) <| .of_ite (.of_respond ..) ⟨_, rfl, .inr fun _ ha => nomatch ha⟩

open AnswersAsCommand in
/-- Every check of a command ends in a rejection and every other path in an acceptance (R13, R103). -/
theorem exec_answersAsCommand {i : Instr} (s : State) (h : i.isCommand = true) : AnswersAsCommand s (exec i s) := by
  cases i with
  | cfg ch f =>
    exact of_withChannel fun _ => of_ite (of_reject (by decide)) <| of_ite (of_reject (by decide)) (of_respond ..)
  | arm ch src dst count =>
    exact of_withChannel fun _ => of_ite (of_reject (by decide)) <| of_ite (of_reject (by decide)) <|
      of_ite (of_reject (by decide)) <| of_ite (of_reject (by decide)) <| of_ite (of_reject (by decide)) (of_respond ..)
  | en ch => exact of_withChannel fun _ => of_respond ..
  | dis ch => exact of_withChannel fun _ => of_respond ..
  | runq ch => exact of_withChannel fun _ => of_respond ..
  | cntq ch => exact of_withChannel fun _ => of_respond ..
  | tcq ch => exact of_withChannel fun _ => of_respond ..
  | clrtc ch => exact of_withChannel fun _ => of_ite (of_reject (by decide)) (of_respond ..)
  | ckstart len off =>
    exact of_ite (of_reject (by decide)) <| of_ite (of_reject (by decide)) <| of_ite (of_reject (by decide)) <|
      of_ite (of_reject (by decide)) <| of_ite (of_reject (by decide)) <| of_ite (of_reject (by decide)) (of_respond ..)
  | ckcancel => exact of_respond ..
  | ckstat => exact of_respond ..
  | encq value => exact of_respond ..
  | encst addr value => exact of_beginStore ..
  | encpx addr r g bl => exact of_beginStore ..
  | encrst addr n => exact of_beginStore ..
  | order => exact of_respond ..
  | period x y z => exact of_ite (of_reject (by decide)) (of_respond ..)
  | req | buserr | rst | service | reload | finish => exact nomatch h

/-- The code of a rejection is one of 1 to 10 (R93, R241). -/
theorem statusCode_range {c : Status} (h : c ≠ .ok) : 1 ≤ (statusCode c).toNat ∧ (statusCode c).toNat ≤ 10 := by
  cases c
  case ok => exact absurd rfl h
  all_goals decide

/-- Settles O49: of the two ways a command ends, only a rejection has a non-zero status. -/
theorem rejectionsChangeNothing : Obligations.RejectionsChangeNothing := by
  intro i s hi
  obtain ⟨t, ht, hend⟩ := exec_answersAsCommand s hi
  refine ⟨t, ht, fun r hr hstatus => ?_⟩
  obtain ⟨code, hcode, rfl⟩ | haccepted := hend
  · cases hr
    exact ⟨rfl, rfl, statusCode_range hcode⟩
  · exact absurd (haccepted r hr) hstatus

/-! ### Which operations stop -/

/-- The operation names a step that does not exist where it stands (R98, R295). -/
def NoSuchStep (i : Instr) (s : State) : Prop :=
  (∃ ch, i = .req ch ∧ ¬ ch.toNat < s.nCh)
    ∨ (i = .service ∧ ¬ (s.st = .active ∧ s.kChan.tcf = true))
    ∨ (i = .reload ∧ s.st ≠ .reloadNext) ∨ (i = .finish ∧ s.st ≠ .done)

/-- Every operation answers a next state, but for the label of a step that is not there, which is refused. -/
theorem exec_next_or_refused (i : Instr) (s : State) :
    (∃ t, exec i s = .next t) ∨ (NoSuchStep i s ∧ ∃ r, exec i s = .refused r) := by
  by_cases hi : i.isCommand = true
  · obtain ⟨t, ht, -⟩ := exec_answersAsCommand s hi
    exact .inl ⟨t, ht⟩
  cases i with
  | req ch =>
    obtain ⟨hch, h⟩ | ⟨-, -, h⟩ | ⟨-, -, -, h⟩ := execReq_cases ch s
    · exact .inr ⟨.inl ⟨ch, rfl, hch⟩, _, h⟩
    · exact .inl ⟨_, h⟩
    · exact .inl ⟨_, h⟩
  | buserr =>
    by_cases h : s.st = .active ∨ s.st = .reloadNext
    · exact .inl ⟨_, if_pos h⟩
    · exact .inl ⟨_, if_neg h⟩
  | rst => exact .inl ⟨_, rfl⟩
  | service =>
    by_cases h : serviceEnabled s = true
    · exact .inl ⟨_, if_pos h⟩
    · exact .inr ⟨.inr (.inl ⟨rfl, by simpa [serviceEnabled] using h⟩), _, if_neg h⟩
  | reload =>
    by_cases h : s.st = .reloadNext
    · exact .inl ⟨_, if_pos h⟩
    · exact .inr ⟨.inr (.inr (.inl ⟨rfl, h⟩)), _, if_neg h⟩
  | finish =>
    by_cases h : s.st = .done
    · exact .inl ⟨_, if_pos h⟩
    · exact .inr ⟨.inr (.inr (.inr ⟨rfl, h⟩)), _, if_neg h⟩
  | _ => exact absurd rfl hi

/-- Settles O50: by `exec_next_or_refused` the answer is never a fault, and a refusal has its reason. -/
theorem execNeverFaults : Obligations.ExecNeverFaults := by
  intro i s
  obtain ⟨t, h⟩ | ⟨hno, r, h⟩ := exec_next_or_refused i s
  · exact ⟨fun f hf => (nomatch h.symm.trans hf), fun r hr => (nomatch h.symm.trans hr)⟩
  · exact ⟨fun f hf => (nomatch h.symm.trans hf), fun _ _ => hno⟩

/-! ### The parameters and the number of channels -/

/-- The parameters of R5 and the number of channels are the same in both states. -/
def SameInstance (s t : State) : Prop := t.par = s.par ∧ t.nCh = s.nCh

theorem SameInstance.trans {s t u : State} (h : SameInstance s t) (h' : SameInstance t u) : SameInstance s u :=
  ⟨h'.1.trans h.1, h'.2.trans h.2⟩

theorem sameInstance_popInput (s : State) : SameInstance s s.popInput := ⟨rfl, rfl⟩

theorem sameInstance_answer (s : State) (c : Status) (d : BitVec 64) : SameInstance s (s.answer c d) := ⟨rfl, rfl⟩

theorem sameInstance_of_rejected {s t : State} (h : RejectedTo s t) : SameInstance s t := by
  obtain ⟨code, -, rfl⟩ := h
  exact sameInstance_answer ..

/-- Replacing the registers of one channel keeps the number of channels, whatever else is written. -/
theorem sameInstance_of_set {s t : State} {n : Nat} {c : Channel} (hp : t.par = s.par)
    (hc : t.chans = s.chans.set n c) : SameInstance s t := ⟨hp, by simp [State.nCh, hc]⟩

theorem sameInstance_memWrite (s : State) (a n : Nat) (v : BitVec 16) : SameInstance s (memWrite s a n v) :=
  ⟨memWrite_par .., State.nCh_of_chans (memWrite_chans ..)⟩

theorem sameInstance_writeByte (s : State) (a : Nat) (v : Byte) : SameInstance s (s.writeByte a v) :=
  ⟨State.writeByte_par .., State.nCh_of_chans (State.writeByte_chans ..)⟩

theorem sameInstance_serve (s : State) (ch : ChIx) : SameInstance s (serve s ch) :=
  (sameInstance_memWrite ..).trans (sameInstance_of_set rfl rfl)

/-- RST draws new registers for the channels there are (R45, R280). -/
theorem sameInstance_of_execRst {s t : State} (h : execRst s = .next t) : SameInstance s t := by
  cases h
  exact ⟨rfl, List.length_mapIdx⟩

theorem sameInstance_of_beginStore {s t : State} {addr : Addr} {bytes : List Byte} {zeros : Nat}
    (h : beginStore s addr bytes zeros = .next t) : SameInstance s t := by
  obtain hr | rfl | ⟨-, -, rfl⟩ := beginStore_next h
  · exact sameInstance_of_rejected hr
  · exact sameInstance_answer ..
  · exact ⟨rfl, rfl⟩

/-- No operation changes the parameters or the number of channels. -/
theorem exec_sameInstance {i : Instr} {s t : State} (h : exec i s = .next t) : SameInstance s t := by
  cases i with
  | cfg ch f =>
    obtain hr | ⟨-, -, -, rfl⟩ := execCfg_next h
    · exact sameInstance_of_rejected hr
    · exact sameInstance_of_set rfl rfl
  | arm ch src dst count =>
    obtain hr | ⟨-, -, -, -, -, -, rfl⟩ := execArm_next h
    · exact sameInstance_of_rejected hr
    · exact sameInstance_of_set rfl rfl
  | en ch =>
    obtain hr | ⟨-, rfl⟩ := execEn_next h
    · exact sameInstance_of_rejected hr
    · exact sameInstance_of_set rfl rfl
  | dis ch =>
    obtain hr | ⟨-, rfl⟩ := execDis_next h
    · exact sameInstance_of_rejected hr
    · exact sameInstance_of_set (State.forceIdle_par ..) (State.forceIdle_chans ..)
  | runq ch => obtain ⟨_, _, rfl⟩ := execRunq_next h; exact sameInstance_answer ..
  | cntq ch => obtain ⟨_, _, rfl⟩ := execCntq_next h; exact sameInstance_answer ..
  | tcq ch => obtain ⟨_, _, rfl⟩ := execTcq_next h; exact sameInstance_answer ..
  | clrtc ch =>
    obtain hr | ⟨-, -, rfl⟩ := execClrtc_next h
    · exact sameInstance_of_rejected hr
    · exact sameInstance_of_set rfl rfl
  | ckstart len off =>
    obtain hr | ⟨-, rfl⟩ := execCkstart_next h
    · exact sameInstance_of_rejected hr
    · exact sameInstance_of_set rfl rfl
  | ckcancel =>
    obtain ⟨-, rfl⟩ | ⟨-, rfl⟩ := execCkcancel_next h
    · exact sameInstance_of_set rfl rfl
    · exact ⟨rfl, rfl⟩
  | ckstat => cases h; exact sameInstance_answer ..
  | encq value => cases h; exact sameInstance_answer ..
  | encst addr value => exact sameInstance_of_beginStore h
  | encpx addr r g bl => exact sameInstance_of_beginStore h
  | encrst addr n => exact sameInstance_of_beginStore h
  | order => cases h; exact sameInstance_answer ..
  | period x y z => obtain ⟨_, _, rfl⟩ := execPeriod_next h; exact sameInstance_answer ..
  | req ch =>
    obtain ⟨-, e⟩ | ⟨-, -, e⟩ | ⟨-, -, -, e⟩ := execReq_cases ch s <;> cases e.symm.trans h
    · exact ⟨rfl, rfl⟩
    · exact sameInstance_serve ..
  | buserr =>
    obtain ⟨-, rfl⟩ | ⟨-, rfl⟩ := execBuserr_next h
    · exact sameInstance_of_set rfl rfl
    · exact ⟨rfl, rfl⟩
  | rst => exact sameInstance_of_execRst h
  | service => obtain ⟨-, -, rfl⟩ := execService_next h; exact sameInstance_of_set rfl rfl
  | reload => obtain ⟨-, rfl⟩ := execReload_next h; exact sameInstance_of_set rfl rfl
  | finish => obtain ⟨-, rfl⟩ := execFinish_next h; exact sameInstance_of_set rfl rfl

theorem hostByteStep_sameInstance {s t : State} (h : hostByteStep s = .next t) : SameInstance s t := by
  obtain ⟨-, e⟩ | ⟨j, -, -, e⟩ | ⟨j, b, j', -, -, -, e⟩ | ⟨j, b, j', -, -, -, -, e⟩ | ⟨j, b, j', -, -, -, -, e⟩ :=
    hostByteStep_cases s <;> cases e.symm.trans h
  · exact ⟨rfl, rfl⟩
  · exact ⟨rfl, rfl⟩
  · exact ⟨rfl, rfl⟩
  · exact sameInstance_writeByte ..
  · exact sameInstance_writeByte ..

theorem hostAccess_sameInstance {a : HostAccess} {s t : State} (h : hostAccess a s = .next t) : SameInstance s t := by
  obtain rfl := hostAccess_next h
  cases a with
  | st8 a v => exact sameInstance_memWrite ..
  | st16 a v => exact sameInstance_memWrite ..
  | ld8 a => exact ⟨rfl, rfl⟩
  | ld16 a => exact ⟨rfl, rfl⟩

/-! ### Everything a step can do -/

/-- With nothing scheduled an FSM step is due on the state as it is, or the host's byte write. -/
theorem ownStep_cases (s : State) :
    (∃ i, ownStep s = .run i s) ∨ ownStep s = .answered (hostByteStep s) := by
  unfold ownStep
  split_ifs
  · exact .inl ⟨_, rfl⟩
  · exact .inl ⟨_, rfl⟩
  · exact .inl ⟨_, rfl⟩
  · exact .inr rfl

/-- The state a step works on: the state itself, or the state with the first entry taken off. -/
def TakenFrom (s u : State) : Prop := u = s ∨ u = s.popInput

/-- The answers of a step that executes no operation and goes on: the host's byte write, E_OP, a host access, or
nothing but the entry taken off. -/
def AnsweredStep (s t : State) : Prop :=
  (∃ u, TakenFrom s u ∧ hostByteStep u = .next t) ∨ t = s.popInput.answer .eOp 0#64
    ∨ (∃ a, hostAccess a s.popInput = .next t) ∨ t = s.popInput

/-- What is due is an operation, or an answer whose next states are those of `AnsweredStep`. -/
def DueIsListed (s : State) (d : Due) : Prop :=
  (∃ i u, TakenFrom s u ∧ d = .run i u) ∨ ∃ r, d = .answered r ∧ ∀ t, r = .next t → AnsweredStep s t

theorem dueIsListed_hostByteStep {s u : State} (h : TakenFrom s u) : DueIsListed s (.answered (hostByteStep u)) :=
  .inr ⟨_, rfl, fun _ ht => .inl ⟨u, h, ht⟩⟩

theorem dueIsListed_run {s u : State} (h : TakenFrom s u) (i : Instr) : DueIsListed s (.run i u) :=
  .inl ⟨i, u, h, rfl⟩

theorem dueIsListed_hostTurn {s : State} {go : Due} (h : DueIsListed s go) : DueIsListed s (hostTurn s go) := by
  obtain e | e := hostTurn_cases s go <;> rw [e]
  · exact dueIsListed_hostByteStep (.inl rfl)
  · exact h

/-- What is due, by the kind of the entry at the head of the schedule. -/
theorem dueIsListed_due (s : State) : DueIsListed s (due s) := by
  unfold due
  split
  next =>
    obtain ⟨i, e⟩ | e := ownStep_cases s <;> rw [e]
    · exact dueIsListed_run (.inl rfl) i
    · exact dueIsListed_hostByteStep (.inl rfl)
  next =>
    apply dueIsListed_hostTurn
    split
    · exact dueIsListed_run (.inr rfl) _
    · exact .inr ⟨_, rfl, fun t ht => .inr (.inl (reject_next.mp ht))⟩
  next =>
    split
    · exact dueIsListed_run (.inr rfl) _
    · exact .inr ⟨_, rfl, fun t ht => nomatch ht⟩
  next a _ _ => exact dueIsListed_hostTurn (.inr ⟨_, rfl, fun t ht => .inr (.inr (.inl ⟨a, ht⟩))⟩)
  next => exact dueIsListed_hostByteStep (.inr rfl)
  next =>
    refine dueIsListed_hostTurn (.inr ⟨_, rfl, fun t ht => .inr (.inr (.inr ?_))⟩)
    cases ht; rfl

/-- A step that answers a next state executes an operation or is one of the answers without one. -/
theorem step_next {s t : State} (h : step s = .next t) :
    (∃ i u, TakenFrom s u ∧ exec i u = .next t) ∨ AnsweredStep s t := by
  obtain ⟨i, u, hu, hd⟩ | ⟨r, hd, hr⟩ := dueIsListed_due s
  · exact .inl ⟨i, u, hu, (step_of_due_run hd).symm.trans h⟩
  · exact .inr (hr t ((step_of_due_answered hd).symm.trans h))

theorem sameInstance_of_takenFrom {s u : State} (h : TakenFrom s u) : SameInstance s u := by
  obtain rfl | rfl := h
  · exact ⟨rfl, rfl⟩
  · exact sameInstance_popInput s

/-- Settles O60, by the kinds of step of `step_next`. -/
theorem stepKeepsTheInstance : Obligations.StepKeepsTheInstance := by
  intro s t h
  obtain ⟨i, u, hu, hi⟩ | ⟨u, hu, hb⟩ | rfl | ⟨a, ha⟩ | rfl := step_next h
  · exact (sameInstance_of_takenFrom hu).trans (exec_sameInstance hi)
  · exact (sameInstance_of_takenFrom hu).trans (hostByteStep_sameInstance hb)
  · exact (sameInstance_popInput s).trans (sameInstance_answer ..)
  · exact (sameInstance_popInput s).trans (hostAccess_sameInstance ha)
  · exact sameInstance_popInput s

end Sys2Proof.Machine

/-! The family of spec/10_state.md: which operation writes which register (O51, O52, O53), the values after reset (O1),
and the invariant of R33 and R39 (O58, O59). -/

namespace Sys2Proof.Machine

/-! ### What an operation can write

`RegWrite` lists every write to the registers of a channel and of the chunk FSM; `exec_effect` says that an operation
does one of those, or answers, or begins a store command, or resets the block. O51, O52, O53 and O58 are read off
these two. -/

/-- The chunk FSM's registers and the pulses raised (R34 to R38, R40). -/
structure FsmRegs where
  st : ChunkState
  rem : BitVec 32
  chunk : BitVec 16
  done : Bool
  err : Bool
  pulses : List Pulse

/-- The chunk FSM's registers in a state. -/
def State.fsm (s : State) : FsmRegs := ⟨s.st, s.rem, s.chunk, s.done, s.err, s.pulses⟩

/-- The state with the registers of channel `ch` and those of the chunk FSM replaced. -/
def State.withRegs (s : State) (ch : ChIx) (c : Channel) (f : FsmRegs) : State :=
  { s.setChan ch c with
    st := f.st, rem := f.rem, chunk := f.chunk, done := f.done, err := f.err, pulses := f.pulses }

/-- `RegWrite s i ch c f`: the operation `i`, accepted in `s`, puts `c` into the registers of channel `ch` and `f` into
those of the chunk FSM (R43). RST, which writes every channel, is not listed. -/
inductive RegWrite (s : State) : Instr → ChIx → Channel → FsmRegs → Prop
  | cfg {ch : ChIx} {f : CfgFields} (hen : (s.chan ch).en = false) (hf : cfgLegal f = true) :
      RegWrite s (.cfg ch f) ch (configure (s.chan ch) f) s.fsm
  | arm {ch : ChIx} {src dst : Addr} {count : BitVec 32} (hen : (s.chan ch).en = false) (hcv : (s.chan ch).cv = true)
      (hcount : countLegal count = true) (halign : addrsAligned (elemSize (s.chan ch).cfg) src dst = true)
      (htop : src.toNat + count.toNat * elemSize (s.chan ch).cfg ≤ addrSpace) :
      RegWrite s (.arm ch src dst count) ch (loadDescriptor (s.chan ch) src dst count) s.fsm
  | en (ch : ChIx) : RegWrite s (.en ch) ch { s.chan ch with en := true } s.fsm
  | dis {ch : ChIx} (hk : ch ≠ s.par.chK) : RegWrite s (.dis ch) ch { s.chan ch with en := false } s.fsm
  | disK : RegWrite s (.dis s.par.chK) s.par.chK { s.kChan with en := false } { s.fsm with st := .idle }
  | clrtc {ch : ChIx} (hk : ch ≠ s.par.chK ∨ s.st = .idle) : RegWrite s (.clrtc ch) ch (clearTcf (s.chan ch)) s.fsm
  | ckstart {len off : BitVec 32} (h : CkstartAccepts s len off) :
      RegWrite s (.ckstart len off) s.par.chK
        { s.kChan with cur := s.kChan.src + off, cnt := chunkLength s.par len, en := true }
        { s.fsm with st := .active, rem := len, chunk := chunkLength s.par len, done := false, err := false }
  | ckcancel : RegWrite s .ckcancel s.par.chK { s.kChan with en := false }
      { s.fsm with st := .idle, rem := 0#32, chunk := 0#16 }
  | ckcancelIdle (hst : s.st = .idle) :
      RegWrite s .ckcancel s.par.chK s.kChan { s.fsm with rem := 0#32, chunk := 0#16 }
  | req {ch : ChIx} (r : OutRec) (hrun : running (s.chan ch) = true) :
      RegWrite s (.req ch) ch (advance (s.chan ch) r) s.fsm
  | buserr (hst : s.st = .active ∨ s.st = .reloadNext) :
      RegWrite s .buserr s.par.chK { s.kChan with en := false }
        { s.fsm with st := .idle, rem := 0#32, chunk := 0#16, err := true }
  | service (hst : s.st = .active) (htcf : s.kChan.tcf = true) :
      RegWrite s .service s.par.chK { s.kChan with tcf := false }
        { s.fsm with
          st := if s.rem - s.chunk.setWidth 32 = 0#32 then .done else .reloadNext
          rem := s.rem - s.chunk.setWidth 32 }
  | reload (hst : s.st = .reloadNext) :
      RegWrite s .reload s.par.chK { s.kChan with cnt := chunkLength s.par s.rem }
        { s.fsm with
          st := .active, chunk := chunkLength s.par s.rem, pulses := s.pulses ++ [.chunkContinue] }
  | finish (hst : s.st = .done) :
      RegWrite s .finish s.par.chK { s.kChan with en := false }
        { s.fsm with st := .idle, chunk := 0#16, done := true, pulses := s.pulses ++ [.chunkDone] }

/-- The state after RST (R280). -/
def State.afterRst (s : State) : State :=
  { s with
    chans := s.chans.mapIdx fun i _ => channelAfterRst s.resets i
    st := .idle, rem := 0#32, chunk := 0#16, done := false, err := false
    pulses := [], rsp := none, store := none, resets := s.resets + 1 }

/-- Everything an operation can leave: the response alone, a store command in progress, a write to registers, a served
request, or the block after reset. -/
inductive ExecEffect (s : State) : Instr → State → Prop
  | answer (i : Instr) (rsp : Option Response) : ExecEffect s i { s with rsp := rsp }
  | store (i : Instr) (j : StoreJob) (hlen : 1 ≤ jobLength j) (htop : j.next.toNat + jobLength j ≤ addrSpace) :
      ExecEffect s i { s with store := some j, rsp := none }
  | write {i : Instr} {ch : ChIx} {c : Channel} {f : FsmRegs} (rsp : Option Response) (h : RegWrite s i ch c f) :
      ExecEffect s i { s.withRegs ch c f with rsp := rsp }
  | serve {ch : ChIx} (hrun : running (s.chan ch) = true) (hmap : moveEnabled s.par (s.chan ch) = true) :
      ExecEffect s (.req ch) (serve s ch)
  | reset : ExecEffect s .rst s.afterRst

theorem execEffect_of_rejected {s t : State} (i : Instr) (h : RejectedTo s t) : ExecEffect s i t := by
  obtain ⟨code, -, rfl⟩ := h
  exact .answer i _

theorem execEffect_of_answer {s t : State} (i : Instr) (h : ∃ code d, t = s.answer code d) : ExecEffect s i t := by
  obtain ⟨code, d, rfl⟩ := h
  exact .answer i _

theorem execEffect_of_beginStore {s t : State} {addr : Addr} {bytes : List Byte} {zeros : Nat} (i : Instr)
    (h : beginStore s addr bytes zeros = .next t) : ExecEffect s i t := by
  obtain hr | rfl | ⟨htop, hlen, rfl⟩ := beginStore_next h
  · exact execEffect_of_rejected i hr
  · exact .answer i _
  · exact .store i _ hlen htop

/-- DIS of another channel leaves the FSM alone (R208). -/
theorem State.forceIdle_of_ne {s : State} {ch : ChIx} (h : ch ≠ s.par.chK) : s.forceIdle ch = s := by
  simp [State.forceIdle, State.isK, h]

/-- DIS of the FSM's channel leaves the FSM in Idle (R208). -/
theorem State.forceIdle_of_eq {s : State} {ch : ChIx} (h : ch = s.par.chK) :
    s.forceIdle ch = { s with st := .idle } := by
  by_cases hst : s.st = .idle
  · have hsame : { s with st := .idle } = s := by rw [← hst]
    simp [State.forceIdle, hst, hsame]
  · simp [State.forceIdle, State.isK, h, hst]

/-- Storing what CH_K holds already changes nothing. -/
theorem State.setK_kChan (s : State) : s.setK s.kChan = s := by
  have hset : s.chans.set s.par.chK.toNat s.kChan = s.chans := by
    by_cases h : s.par.chK.toNat < s.chans.length
    · rw [State.kChan, State.chan, List.getD_eq_getElem _ _ h, List.set_getElem_self]
    · exact List.set_eq_of_length_le (Nat.le_of_not_lt h)
  simp only [State.setK, State.setChan, hset]

theorem State.withRegs_kChan (s : State) (f : FsmRegs) :
    s.withRegs s.par.chK s.kChan f =
      { s with st := f.st, rem := f.rem, chunk := f.chunk, done := f.done, err := f.err, pulses := f.pulses } := by
  have h : s.setChan s.par.chK s.kChan = s := s.setK_kChan
  rw [State.withRegs, h]

/-- An operation that answers a next state has one of the listed effects. -/
theorem exec_effect {i : Instr} {s t : State} (h : exec i s = .next t) : ExecEffect s i t := by
  cases i with
  | cfg ch f =>
    obtain hr | ⟨-, hen, hf, rfl⟩ := execCfg_next h
    · exact execEffect_of_rejected _ hr
    · exact .write _ (.cfg hen hf)
  | arm ch src dst count =>
    obtain hr | ⟨-, hen, hcv, hcount, halign, htop, rfl⟩ := execArm_next h
    · exact execEffect_of_rejected _ hr
    · exact .write _ (.arm hen hcv hcount halign htop)
  | en ch =>
    obtain hr | ⟨-, rfl⟩ := execEn_next h
    · exact execEffect_of_rejected _ hr
    · exact .write _ (.en ch)
  | dis ch =>
    obtain hr | ⟨-, rfl⟩ := execDis_next h
    · exact execEffect_of_rejected _ hr
    · by_cases hk : ch = s.par.chK
      · rw [State.forceIdle_of_eq (s := s.setChan ch _) hk]
        subst hk
        exact .write _ .disK
      · rw [State.forceIdle_of_ne (s := s.setChan ch _) hk]
        exact .write _ (.dis hk)
  | runq ch => exact execEffect_of_answer _ (execRunq_next h)
  | cntq ch => exact execEffect_of_answer _ (execCntq_next h)
  | tcq ch => exact execEffect_of_answer _ (execTcq_next h)
  | clrtc ch =>
    obtain hr | ⟨-, hk, rfl⟩ := execClrtc_next h
    · exact execEffect_of_rejected _ hr
    · exact .write _ (.clrtc hk)
  | ckstart len off =>
    obtain hr | ⟨hacc, rfl⟩ := execCkstart_next h
    · exact execEffect_of_rejected _ hr
    · exact .write _ (.ckstart hacc)
  | ckcancel =>
    obtain ⟨-, rfl⟩ | ⟨hst, rfl⟩ := execCkcancel_next h
    · exact .write _ .ckcancel
    · have hw := ExecEffect.write (some ⟨0#4, 0#64⟩) (.ckcancelIdle hst)
      rwa [State.withRegs_kChan] at hw
  | ckstat => cases h; exact .answer _ _
  | encq value => cases h; exact .answer _ _
  | encst addr value => exact execEffect_of_beginStore _ h
  | encpx addr r g bl => exact execEffect_of_beginStore _ h
  | encrst addr n => exact execEffect_of_beginStore _ h
  | order => cases h; exact .answer _ _
  | period x y z => exact execEffect_of_answer _ (execPeriod_next h)
  | req ch =>
    obtain ⟨-, e⟩ | ⟨-, -, e⟩ | ⟨-, hrun, hmap, e⟩ := execReq_cases ch s <;> cases e.symm.trans h
    · exact .answer _ s.rsp
    · exact .serve hrun hmap
  | buserr =>
    obtain ⟨hst, rfl⟩ | ⟨-, rfl⟩ := execBuserr_next h
    · exact .write _ (.buserr hst)
    · exact .answer _ t.rsp
  | rst => cases h; exact .reset
  | service => obtain ⟨hst, htcf, rfl⟩ := execService_next h; exact .write _ (.service hst htcf)
  | reload => obtain ⟨hst, rfl⟩ := execReload_next h; exact .write _ (.reload hst)
  | finish => obtain ⟨hst, rfl⟩ := execFinish_next h; exact .write _ (.finish hst)

/-! ### The registers after an operation -/

/-- The log record of the element a served request moves (R40, R181). -/
def movedRecord (s : State) (ch : ChIx) : OutRec :=
  ⟨(s.chan ch).dst, elemSize (s.chan ch).cfg, memRead s (s.chan ch).cur.toNat (elemSize (s.chan ch).cfg)⟩

/-- Serving a request writes the registers of its own channel alone (R181, R186). -/
theorem serve_chans (s : State) (ch : ChIx) :
    (serve s ch).chans = (s.setChan ch (advance (s.chan ch) (movedRecord s ch))).chans := by
  simp only [serve, State.setChan_chans, memWrite_chans, movedRecord]

/-- Serving a request leaves the chunk FSM alone (R186). -/
theorem serve_fsm (s : State) (ch : ChIx) : (serve s ch).fsm = s.fsm := by rw [serve_eq]; rfl

/-- Outside RST an operation keeps every register or makes one of the listed writes. -/
theorem exec_regs {i : Instr} {s t : State} (h : exec i s = .next t) (hi : i ≠ .rst) :
    (t.chans = s.chans ∧ t.fsm = s.fsm)
      ∨ ∃ ch c f, RegWrite s i ch c f ∧ t.chans = (s.setChan ch c).chans ∧ t.fsm = f := by
  cases exec_effect h with
  | answer => exact .inl ⟨rfl, rfl⟩
  | store => exact .inl ⟨rfl, rfl⟩
  | write _ hw => exact .inr ⟨_, _, _, hw, rfl, rfl⟩
  | serve hrun _ => exact .inr ⟨_, _, _, .req _ hrun, serve_chans .., serve_fsm ..⟩
  | reset => exact absurd rfl hi

/-- Outside RST a channel keeps its registers or they are written by a listed write. -/
theorem exec_chan {i : Instr} {s t : State} (h : exec i s = .next t) (hi : i ≠ .rst) (ch : ChIx) :
    t.chan ch = s.chan ch ∨ ∃ c f, RegWrite s i ch c f ∧ t.chan ch = c := by
  obtain ⟨hc, -⟩ | ⟨j, c, f, hw, hc, -⟩ := exec_regs h hi
  · exact .inl (State.chan_of_chans hc ch)
  · rw [State.chan_of_chans hc ch, State.chan_setChan]
    split
    next hj => exact .inr ⟨c, f, hj.1 ▸ hw, rfl⟩
    next => exact .inl rfl

/-- Outside RST the chunk FSM keeps its registers or they are written by a listed write. -/
theorem exec_fsm {i : Instr} {s t : State} (h : exec i s = .next t) (hi : i ≠ .rst) :
    t.fsm = s.fsm ∨ ∃ ch c, RegWrite s i ch c t.fsm := by
  obtain ⟨-, hf⟩ | ⟨ch, c, f, hw, -, rfl⟩ := exec_regs h hi
  · exact .inl hf
  · exact .inr ⟨ch, c, hw⟩

/-! ### What CFG and a moved element leave alone -/

/-- CFG leaves the addresses, the cursor, EN, TCF and the log alone (R151). -/
theorem configure_keeps (c : Channel) (f : CfgFields) :
    (configure c f).src = c.src ∧ (configure c f).dst = c.dst ∧ (configure c f).cntReload = c.cntReload
      ∧ (configure c f).cur = c.cur ∧ (configure c f).en = c.en ∧ (configure c f).tcf = c.tcf := by
  obtain ⟨-, -, e⟩ | ⟨-, e⟩ := configure_cases c f <;> rw [e] <;> exact ⟨rfl, rfl, rfl, rfl, rfl, rfl⟩

/-- A moved element leaves the descriptor and EN alone (R43, R181). -/
theorem advance_keepsDescriptor (c : Channel) (r : OutRec) : KeepsDescriptor c (advance c r) := by
  obtain ⟨-, e⟩ | ⟨-, -, e⟩ | ⟨-, -, e⟩ := advance_cases c r <;> rw [e] <;> exact ⟨rfl, rfl, rfl, rfl, rfl, rfl, rfl⟩

/-! ### The writers of each register (R43)

In each proof the named cases are the register's writers, and the last line has the writes that leave it as it was. -/

section
variable {s : State} {i : Instr} {ch : ChIx} {d : Channel} {f : FsmRegs}

theorem RegWrite.writer_of_cfg_cv (hw : RegWrite s i ch d f) (hne : d.cfg ≠ (s.chan ch).cfg ∨ d.cv ≠ (s.chan ch).cv) :
    ∃ f, i = .cfg ch f := by
  cases hw with
  | cfg => exact ⟨_, rfl⟩
  | req r =>
    obtain ⟨hcfg, hcv, -⟩ := advance_keepsDescriptor (s.chan ch) r
    exact absurd hne (by simp [hcfg, hcv])
  | _ => exact absurd hne (by simp [loadDescriptor, clearTcf, State.kChan])

theorem RegWrite.writer_of_addresses (hw : RegWrite s i ch d f)
    (hne : d.src ≠ (s.chan ch).src ∨ d.dst ≠ (s.chan ch).dst ∨ d.cntReload ≠ (s.chan ch).cntReload) :
    ∃ src dst n, i = .arm ch src dst n := by
  cases hw with
  | arm => exact ⟨_, _, _, rfl⟩
  | @cfg _ fields =>
    obtain ⟨hsrc, hdst, hreload, -⟩ := configure_keeps (s.chan ch) fields
    exact absurd hne (by simp [hsrc, hdst, hreload])
  | req r =>
    obtain ⟨-, -, hsrc, hdst, hreload, -⟩ := advance_keepsDescriptor (s.chan ch) r
    exact absurd hne (by simp [hsrc, hdst, hreload])
  | _ => exact absurd hne (by simp [clearTcf, State.kChan])

theorem RegWrite.writer_of_av (hw : RegWrite s i ch d f) (hne : d.av ≠ (s.chan ch).av) :
    (∃ src dst n, i = .arm ch src dst n ∧ d.av = true)
      ∨ ∃ f, i = .cfg ch f ∧ f.width ≠ (s.chan ch).cfg.width ∧ d.av = false := by
  cases hw with
  | arm => exact .inl ⟨_, _, _, rfl, rfl⟩
  | @cfg _ fields =>
    obtain ⟨-, hwidth, e⟩ | ⟨-, e⟩ := configure_cases (s.chan ch) fields
    · exact .inr ⟨fields, rfl, hwidth, by rw [e]⟩
    · exact absurd (by rw [e]) hne
  | req r =>
    obtain ⟨-, -, -, -, -, hav, -⟩ := advance_keepsDescriptor (s.chan ch) r
    exact absurd hav hne
  | _ => exact absurd rfl hne

theorem RegWrite.writer_of_cur (hw : RegWrite s i ch d f) (hne : d.cur ≠ (s.chan ch).cur) :
    (∃ src dst n, i = .arm ch src dst n) ∨ i = .req ch ∨ (ch = s.par.chK ∧ ∃ l o, i = .ckstart l o) := by
  cases hw with
  | arm => exact .inl ⟨_, _, _, rfl⟩
  | req => exact .inr (.inl rfl)
  | ckstart => exact .inr (.inr ⟨rfl, _, _, rfl⟩)
  | @cfg _ fields =>
    obtain ⟨-, -, -, hcur, -⟩ := configure_keeps (s.chan ch) fields
    exact absurd hcur hne
  | _ => exact absurd rfl hne

theorem RegWrite.writer_of_cnt (hw : RegWrite s i ch d f) (hne : d.cnt ≠ (s.chan ch).cnt) :
    (∃ src dst n, i = .arm ch src dst n) ∨ i = .req ch
      ∨ (∃ f, i = .cfg ch f ∧ f.width ≠ (s.chan ch).cfg.width ∧ d.cnt = 0#16)
      ∨ (ch = s.par.chK ∧ ((∃ l o, i = .ckstart l o) ∨ i = .reload)) := by
  cases hw with
  | arm => exact .inl ⟨_, _, _, rfl⟩
  | req => exact .inr (.inl rfl)
  | @cfg _ fields =>
    obtain ⟨-, hwidth, e⟩ | ⟨-, e⟩ := configure_cases (s.chan ch) fields
    · exact .inr (.inr (.inl ⟨fields, rfl, hwidth, by rw [e]⟩))
    · exact absurd (by rw [e]) hne
  | ckstart => exact .inr (.inr (.inr ⟨rfl, .inl ⟨_, _, rfl⟩⟩))
  | reload => exact .inr (.inr (.inr ⟨rfl, .inr rfl⟩))
  | _ => exact absurd rfl hne

theorem RegWrite.writer_of_en (hw : RegWrite s i ch d f) (hne : d.en ≠ (s.chan ch).en) :
    (d.en = true ∧ (i = .en ch ∨ (ch = s.par.chK ∧ ∃ l o, i = .ckstart l o)))
      ∨ (d.en = false ∧ (i = .dis ch ∨ (ch = s.par.chK ∧ (i = .ckcancel ∨ i = .finish ∨ i = .buserr)))) := by
  cases hw with
  | en => exact .inl ⟨rfl, .inl rfl⟩
  | ckstart => exact .inl ⟨rfl, .inr ⟨rfl, _, _, rfl⟩⟩
  | dis => exact .inr ⟨rfl, .inl rfl⟩
  | disK => exact .inr ⟨rfl, .inl rfl⟩
  | ckcancel => exact .inr ⟨rfl, .inr ⟨rfl, .inl rfl⟩⟩
  | finish => exact .inr ⟨rfl, .inr ⟨rfl, .inr (.inl rfl)⟩⟩
  | buserr => exact .inr ⟨rfl, .inr ⟨rfl, .inr (.inr rfl)⟩⟩
  | @cfg _ fields =>
    obtain ⟨-, -, -, -, hen, -⟩ := configure_keeps (s.chan ch) fields
    exact absurd hen hne
  | req r =>
    obtain ⟨-, -, -, -, -, -, hen⟩ := advance_keepsDescriptor (s.chan ch) r
    exact absurd hen hne
  | _ => exact absurd rfl hne

theorem RegWrite.writer_of_tcf (hw : RegWrite s i ch d f) (hne : d.tcf ≠ (s.chan ch).tcf) :
    (d.tcf = true ∧ i = .req ch ∧ (s.chan ch).cnt = 1#16 ∧ (s.chan ch).cfg.circ = false)
      ∨ (d.tcf = false ∧ (i = .clrtc ch ∨ (ch = s.par.chK ∧ i = .service))) := by
  cases hw with
  | req r =>
    obtain ⟨-, e⟩ | ⟨hcnt, hcirc, e⟩ | ⟨-, -, e⟩ := advance_cases (s.chan ch) r
    · exact absurd (by rw [e]) hne
    · exact .inl ⟨by rw [e], rfl, hcnt, hcirc⟩
    · exact absurd (by rw [e]) hne
  | clrtc => exact .inr ⟨rfl, .inl rfl⟩
  | service => exact .inr ⟨rfl, .inr ⟨rfl, rfl⟩⟩
  | @cfg _ fields =>
    obtain ⟨-, -, -, -, -, htcf⟩ := configure_keeps (s.chan ch) fields
    exact absurd htcf hne
  | _ => exact absurd rfl hne

theorem RegWrite.writer_of_rem (hw : RegWrite s i ch d f) (hne : f.rem ≠ s.rem) :
    (∃ l o, i = .ckstart l o) ∨ i = .service ∨ i = .buserr ∨ i = .ckcancel := by
  cases hw with
  | ckstart => exact .inl ⟨_, _, rfl⟩
  | service => exact .inr (.inl rfl)
  | buserr => exact .inr (.inr (.inl rfl))
  | ckcancel => exact .inr (.inr (.inr rfl))
  | ckcancelIdle => exact .inr (.inr (.inr rfl))
  | _ => exact absurd rfl hne

theorem RegWrite.writer_of_chunk (hw : RegWrite s i ch d f) (hne : f.chunk ≠ s.chunk) :
    (∃ l o, i = .ckstart l o) ∨ i = .reload ∨ i = .finish ∨ i = .buserr ∨ i = .ckcancel := by
  cases hw with
  | ckstart => exact .inl ⟨_, _, rfl⟩
  | reload => exact .inr (.inl rfl)
  | finish => exact .inr (.inr (.inl rfl))
  | buserr => exact .inr (.inr (.inr (.inl rfl)))
  | ckcancel => exact .inr (.inr (.inr (.inr rfl)))
  | ckcancelIdle => exact .inr (.inr (.inr (.inr rfl)))
  | _ => exact absurd rfl hne

theorem RegWrite.writer_of_done (hw : RegWrite s i ch d f) (hne : f.done ≠ s.done) :
    (f.done = true ∧ i = .finish) ∨ (f.done = false ∧ ∃ l o, i = .ckstart l o) := by
  cases hw with
  | finish => exact .inl ⟨rfl, rfl⟩
  | ckstart => exact .inr ⟨rfl, _, _, rfl⟩
  | _ => exact absurd rfl hne

theorem RegWrite.writer_of_err (hw : RegWrite s i ch d f) (hne : f.err ≠ s.err) :
    (f.err = true ∧ i = .buserr ∧ (s.st = .active ∨ s.st = .reloadNext))
      ∨ (f.err = false ∧ ∃ l o, i = .ckstart l o) := by
  cases hw with
  | buserr hst => exact .inl ⟨rfl, rfl, hst⟩
  | ckstart => exact .inr ⟨rfl, _, _, rfl⟩
  | _ => exact absurd rfl hne

theorem RegWrite.writer_of_pulses (hw : RegWrite s i ch d f) (hne : f.pulses ≠ s.pulses) :
    (i = .reload ∧ f.pulses = s.pulses ++ [.chunkContinue]) ∨ (i = .finish ∧ f.pulses = s.pulses ++ [.chunkDone]) := by
  cases hw with
  | reload => exact .inl ⟨rfl, rfl⟩
  | finish => exact .inr ⟨rfl, rfl⟩
  | _ => exact absurd rfl hne

end

/-- Settles O51: a register that changed was written, and `RegWrite` names the operation. -/
theorem descriptorRegistersHaveTheirWriters : Obligations.DescriptorRegistersHaveTheirWriters := by
  intro i s t ch h hi c d
  obtain hkeep | ⟨c', f, hw, hd⟩ := exec_chan h hi ch
  · simp [c, d, hkeep]
  · simp only [d, hd]
    exact ⟨hw.writer_of_cfg_cv, hw.writer_of_addresses, hw.writer_of_av⟩

/-- Settles O52: a register that changed was written, and `RegWrite` names the operation. -/
theorem workingRegistersHaveTheirWriters : Obligations.WorkingRegistersHaveTheirWriters := by
  intro i s t ch h hi c d onK
  obtain hkeep | ⟨c', f, hw, hd⟩ := exec_chan h hi ch
  · simp [c, d, hkeep]
  · simp only [d, hd]
    exact ⟨hw.writer_of_cur, hw.writer_of_cnt, hw.writer_of_en, hw.writer_of_tcf⟩

/-- Settles O53: a register that changed was written, and `RegWrite` names the operation. -/
theorem fsmRegistersHaveTheirWriters : Obligations.FsmRegistersHaveTheirWriters := by
  intro i s t h hi start
  obtain hkeep | ⟨ch, c, hw⟩ := exec_fsm h hi
  · obtain ⟨-, hrem, hchunk, hdone, herr, hpulses⟩ := FsmRegs.mk.inj hkeep
    simp [hrem, hchunk, hdone, herr, hpulses]
  · exact ⟨hw.writer_of_rem, hw.writer_of_chunk, hw.writer_of_done, hw.writer_of_err, hw.writer_of_pulses⟩

/-! ### The values after reset -/

/-- After reset every channel, existing or not, reads as R45 gives it. -/
theorem State.reset_chan (ch : ChIx) : State.reset.chan ch = Channel.atReset := by
  unfold State.chan State.reset
  cases ch.toNat <;> rfl

theorem State.mem_reset_chans {c : Channel} (h : c ∈ State.reset.chans) : c = Channel.atReset := by
  simpa [State.reset] using h

/-- After reset the host's turn leaves the machine as it is. -/
theorem step_reset : step State.reset = .next State.reset := rfl

/-- Settles O1: the one channel of the default parameters reads as `Channel.atReset`, and nothing is due. -/
theorem resetLeavesTheSpecifiedValues : Obligations.ResetLeavesTheSpecifiedValues := by
  refine ⟨⟨fun c hc => ?_, rfl, rfl, rfl, rfl, rfl, rfl, rfl, fun ch => ?_, rfl⟩, step_reset⟩
  · obtain rfl := State.mem_reset_chans hc
    exact ⟨rfl, rfl, rfl, rfl, rfl, rfl⟩
  · simp [irqTc, State.reset_chan, Channel.atReset]

/-! ### Element sizes and words -/

theorem elemSize_cases (f : CfgFields) : elemSize f = 1 ∨ elemSize f = 2 := by
  unfold elemSize; split <;> simp

theorem elemSize_of_width {f g : CfgFields} (h : f.width = g.width) : elemSize f = elemSize g := by
  simp [elemSize, h]

/-- The channel of a chunked transfer moves bytes, and does not wrap (R202, R214). -/
theorem cfgChunkable_spec {f : CfgFields} (h : cfgChunkable f = true) : elemSize f = 1 ∧ f.circ = false := by
  simp only [cfgChunkable, Bool.and_eq_true, beq_iff_eq, Bool.not_eq_true'] at h
  exact ⟨if_pos h.1, h.2⟩

theorem running_iff {c : Channel} : running c = true ↔ c.en = true ∧ c.cnt ≠ 0#16 := by simp [running]

theorem toNat_pos_of_ne_zero {n : Nat} {v : BitVec n} (h : v ≠ 0#n) : 1 ≤ v.toNat :=
  Nat.pos_of_ne_zero fun e => h (BitVec.eq_of_toNat_eq (by simpa using e))

/-- A cursor that stays below 2^32 advances without wrapping. -/
theorem cursor_advance {cur : Addr} {f : CfgFields} (h : cur.toNat + elemSize f < addrSpace) :
    (cur + BitVec.ofNat 32 (elemSize f)).toNat = cur.toNat + elemSize f := by
  rw [addrSpace_eq] at h
  obtain e | e := elemSize_cases f <;> rw [e] at h ⊢ <;> bv_omega

/-! ### The channel invariants (R33) -/

theorem channelInv_atReset : ChannelInv Channel.atReset := by decide

/-- A channel with nothing configured, armed or counted, whatever its other registers hold. -/
theorem channelInv_of_cleared {c : Channel} (hcv : c.cv = false) (hav : c.av = false) (hcnt : c.cnt = 0#16) :
    ChannelInv c := by
  simp [ChannelInv, hcv, hav, hcnt]

theorem channelInv_chan {s : State} (h : ∀ c ∈ s.chans, ChannelInv c) (ch : ChIx) : ChannelInv (s.chan ch) := by
  by_cases hch : ch.toNat < s.nCh
  · exact h _ (State.chan_mem hch)
  · rw [State.chan, List.getD_eq_default _ _ (Nat.le_of_not_lt hch)]
    exact channelInv_atReset

/-- CFG keeps R33: a change of width takes the arming away (R151). -/
theorem channelInv_configure {c : Channel} {f : CfgFields} (h : ChannelInv c) (hf : cfgLegal f = true) :
    ChannelInv (configure c f) := by
  obtain ⟨hcv, hav, hdesc, hcur, -⟩ := h
  obtain ⟨-, -, e⟩ | ⟨hsame, e⟩ := configure_cases c f <;> rw [e]
  · exact ⟨nofun, fun hne => absurd rfl hne, nofun, fun hne => absurd rfl hne, fun _ => hf⟩
  · have hsize (ha : c.av = true) : elemSize f = elemSize c.cfg :=
      elemSize_of_width (by simpa [ha] using hsame)
    refine ⟨fun _ => rfl, hav, fun ha => ?_, fun hne => ?_, fun _ => hf⟩
    · rw [hsize ha]; exact hdesc ha
    · rw [hsize (hav hne)]; exact hcur hne

/-- ARM's checks are R33 (R152). -/
theorem channelInv_loadDescriptor {c : Channel} {src dst : Addr} {count : BitVec 32} (h : ChannelInv c)
    (hcv : c.cv = true) (hcount : countLegal count = true) (halign : addrsAligned (elemSize c.cfg) src dst = true)
    (htop : src.toNat + count.toNat * elemSize c.cfg ≤ addrSpace) : ChannelInv (loadDescriptor c src dst count) := by
  obtain ⟨-, -, -, -, hlegal⟩ := h
  simp only [countLegal, Bool.and_eq_true, decide_eq_true_eq] at hcount
  simp only [addrsAligned, Bool.and_eq_true, decide_eq_true_eq] at halign
  have hword : (count.setWidth 16).toNat = count.toNat := by
    rw [BitVec.toNat_setWidth, Nat.mod_eq_of_lt (Nat.lt_succ_of_le hcount.2)]
  have htop' : src.toNat + (count.setWidth 16).toNat * elemSize c.cfg ≤ addrSpace := by rwa [hword]
  exact ⟨fun _ => hcv, fun _ => rfl, fun _ => ⟨halign.1, halign.2, hword ▸ hcount.1, htop'⟩,
    fun _ => ⟨halign.1, Nat.le_refl _, htop'⟩, hlegal⟩

/-- A moved element keeps R33: the cursor and the count advance together, and a wrap starts again at the
descriptor (R181, R183). -/
theorem channelInv_advance {c : Channel} (r : OutRec) (h : ChannelInv c) (hrun : running c = true) :
    ChannelInv (advance c r) := by
  obtain ⟨-, hne⟩ := running_iff.mp hrun
  obtain ⟨hcv, hav, hdesc, hcur, hlegal⟩ := h
  have hpos := toNat_pos_of_ne_zero hne
  obtain ⟨halign, hlow, htop⟩ := hcur hne
  obtain ⟨hsrc, -, -, hend⟩ := hdesc (hav hne)
  obtain ⟨hne1, e⟩ | ⟨-, -, e⟩ | ⟨-, -, e⟩ := advance_cases c r <;> rw [e]
  · have hcnt : (c.cnt - 1#16).toNat = c.cnt.toNat - 1 ∧ 2 ≤ c.cnt.toNat := by bv_omega
    have hmul : c.cnt.toNat * elemSize c.cfg = (c.cnt.toNat - 1) * elemSize c.cfg + elemSize c.cfg := by
      rw [← Nat.succ_mul]; congr 1; omega
    have hroom : elemSize c.cfg ≤ (c.cnt.toNat - 1) * elemSize c.cfg := Nat.le_mul_of_pos_left _ (by omega)
    have hsize : 1 ≤ elemSize c.cfg := by obtain e | e := elemSize_cases c.cfg <;> omega
    have hadv := cursor_advance (cur := c.cur) (f := c.cfg) (by omega)
    refine ⟨hcv, fun _ => hav hne, hdesc, fun _ => ?_, hlegal⟩
    simp only [hadv, hcnt.1]
    exact ⟨by rw [Nat.add_mod_right]; exact halign, by omega, by omega⟩
  · exact ⟨hcv, fun h => absurd rfl h, hdesc, fun h => absurd rfl h, hlegal⟩
  · exact ⟨hcv, fun _ => hav hne, hdesc, fun _ => ⟨hsrc, Nat.le_refl _, hend⟩, hlegal⟩

/-- The cursor of an accepted CKSTART does not wrap (R202). -/
theorem toNat_ckstart_cursor {s : State} {len off : BitVec 32} (hacc : CkstartAccepts s len off) :
    (s.kChan.src + off).toNat = s.kChan.src.toNat + off.toNat := by
  obtain ⟨-, -, -, -, -, -, hlen, htop⟩ := hacc
  have hpos := toNat_pos_of_ne_zero hlen
  rw [addrSpace_eq] at htop
  rw [BitVec.toNat_add, Nat.mod_eq_of_lt (by omega)]

/-- CKSTART's checks are R33 for the first chunk (R202). -/
theorem channelInv_ckstart {s : State} {len off : BitVec 32} (h : ChannelInv s.kChan)
    (hacc : CkstartAccepts s len off) :
    ChannelInv { s.kChan with cur := s.kChan.src + off, cnt := chunkLength s.par len, en := true } := by
  have hsum := toNat_ckstart_cursor hacc
  obtain ⟨hcv, hav, hdesc, hcur, hlegal⟩ := h
  obtain ⟨-, -, -, hav', hcfg, -, -, htop⟩ := hacc
  refine ⟨hcv, fun _ => hav', hdesc, fun _ => ?_, hlegal⟩
  simp only [hsum, (cfgChunkable_spec hcfg).1, chunkLength_toNat]
  exact ⟨Nat.mod_one _, by omega, by omega⟩

/-- RELOAD keeps R33: the next chunk is part of what the transfer has left (R205). -/
theorem channelInv_reload {s : State} (h : ChannelInv s.kChan) (hr : ReloadNextInv s) :
    ChannelInv { s.kChan with cnt := chunkLength s.par s.rem } := by
  obtain ⟨hcv, hav, hdesc, hcur, hlegal⟩ := h
  obtain ⟨-, hcfg, hav', -, -, -, -, -, hlow, htop⟩ := hr
  refine ⟨hcv, fun _ => hav', hdesc, fun _ => ?_, hlegal⟩
  simp only [(cfgChunkable_spec hcfg).1, chunkLength_toNat]
  exact ⟨Nat.mod_one _, hlow, by omega⟩

/-- Every listed write keeps R33. -/
theorem RegWrite.channelInv {s : State} {i : Instr} {ch : ChIx} {d : Channel} {f : FsmRegs}
    (hw : RegWrite s i ch d f) (h : ∀ ch, ChannelInv (s.chan ch)) (hk : ChunkInv s) : ChannelInv d := by
  cases hw with
  | cfg _ hf => exact channelInv_configure (h ch) hf
  | arm _ hcv hcount halign htop => exact channelInv_loadDescriptor (h ch) hcv hcount halign htop
  | ckstart hacc => exact channelInv_ckstart (h _) hacc
  | req r hrun => exact channelInv_advance r (h ch) hrun
  | reload hst => exact channelInv_reload (h _) (hk.2.1 hst)
  | _ => exact h _

/-! ### The chunk invariants (R39) -/

/-- R39 speaks of the parameters, CH_K and the FSM's registers alone. -/
theorem chunkInv_congr {s t : State} (hp : t.par = s.par) (hk : t.kChan = s.kChan) (hf : t.fsm = s.fsm)
    (h : ChunkInv s) : ChunkInv t := by
  obtain ⟨hst, hrem, hchunk, -⟩ := FsmRegs.mk.inj hf
  simpa only [ChunkInv, ActiveInv, ReloadNextInv, DoneInv, hp, hk, hst, hrem, hchunk] using h

theorem chunkInv_of_idle {s : State} (h : s.st = .idle) : ChunkInv s := by simp [ChunkInv, h]

/-- The FSM of a disabled channel is in Idle (R39). -/
theorem idle_of_disabled {s : State} (h : ChunkInv s) (hen : s.kChan.en = false) : s.st = .idle := by
  obtain ⟨hactive, hreload, hdone⟩ := h
  cases e : s.st with
  | idle => rfl
  | active => exact absurd (hactive e).1 (by simp [hen])
  | reloadNext => exact absurd (hreload e).1 (by simp [hen])
  | done => exact absurd (hdone e).1 (by simp [hen])

/-- A byte moved in Active keeps K1: the count falls as the cursor advances, and the last byte of a chunk raises TCF
(R182, R204). -/
theorem activeInv_advance {s t : State} (r : OutRec) (h : ActiveInv s) (hne : s.kChan.cnt ≠ 0#16) (hp : t.par = s.par)
    (hk : t.kChan = advance s.kChan r) (hrem : t.rem = s.rem) (hchunk : t.chunk = s.chunk) : ActiveInv t := by
  obtain ⟨hen, hcfg, hav, hlow, hcap, hle, hmin, hcnt, htcf, htop, hsrc⟩ := h
  obtain ⟨hsize, hcirc⟩ := cfgChunkable_spec hcfg
  have hsrc := hsrc (.inl hne)
  have hpos := toNat_pos_of_ne_zero hne
  have hcur : (s.kChan.cur + BitVec.ofNat 32 (elemSize s.kChan.cfg)).toNat = (s.kChan.cur.toNat + 1) % 4294967296 := by
    rw [hsize]; simp
  rw [addrSpace_eq] at htop
  simp only [ActiveInv, hp, hk, hrem, hchunk, addrSpace_eq]
  obtain ⟨hne1, e⟩ | ⟨hone, -, e⟩ | ⟨-, hc, -⟩ := advance_cases s.kChan r
  · have hleft : (s.kChan.cnt - 1#16).toNat = s.kChan.cnt.toNat - 1 ∧ 2 ≤ s.kChan.cnt.toNat := by bv_omega
    have hnz : s.kChan.cnt - 1#16 ≠ 0#16 := by bv_omega
    rw [e]
    simp only [hcur, hleft.1]
    exact ⟨hen, hcfg, hav, hlow, hcap, hle, hmin, by omega, by simp [htcf, hne, hnz], by omega, fun _ => by omega⟩
  · have hone : s.kChan.cnt.toNat = 1 := by simp [hone]
    rw [e]
    simp only [hcur]
    exact ⟨hen, hcfg, hav, hlow, hcap, hle, hmin, Nat.zero_le _, by simp, by simp; omega, by simp; omega⟩
  · exact absurd hc (by simp [hcirc])

/-- A request served on CH_K keeps R39: with a count above zero the FSM is in Active or Idle. -/
theorem chunkInv_req {s t : State} (r : OutRec) (h : ChunkInv s) (hrun : running s.kChan = true) (hp : t.par = s.par)
    (hk : t.kChan = advance s.kChan r) (hf : t.fsm = s.fsm) : ChunkInv t := by
  obtain ⟨hst, hrem, hchunk, -⟩ := FsmRegs.mk.inj hf
  obtain ⟨-, hne⟩ := running_iff.mp hrun
  obtain ⟨hactive, hreload, hdone⟩ := h
  refine ⟨fun e => activeInv_advance r (hactive (hst ▸ e)) hne hp hk hrem hchunk, fun e => ?_, fun e => ?_⟩
  · obtain ⟨-, -, -, hcnt, -⟩ := hreload (hst ▸ e)
    exact absurd hcnt hne
  · obtain ⟨-, hcnt, -⟩ := hdone (hst ▸ e)
    exact absurd hcnt hne

theorem chunkInv_of_active {s : State} (hst : s.st = .active) (h : ActiveInv s) : ChunkInv s := by
  simpa [ChunkInv, hst] using h

theorem chunkInv_of_reloadNext {s : State} (hst : s.st = .reloadNext) (h : ReloadNextInv s) : ChunkInv s := by
  simpa [ChunkInv, hst] using h

theorem chunkInv_of_done {s : State} (hst : s.st = .done) (h : DoneInv s) : ChunkInv s := by
  simpa [ChunkInv, hst] using h

/-- An accepted CKSTART establishes K1 and K5 (R202). -/
theorem chunkInv_ckstart {s t : State} {len off : BitVec 32} (hacc : CkstartAccepts s len off)
    (hcap : 1 ≤ s.par.cap.toNat) (hp : t.par = s.par)
    (hk : t.kChan = { s.kChan with cur := s.kChan.src + off, cnt := chunkLength s.par len, en := true })
    (hst : t.st = .active) (hrem : t.rem = len) (hchunk : t.chunk = chunkLength s.par len) : ChunkInv t := by
  have hsum := toNat_ckstart_cursor hacc
  obtain ⟨-, -, -, hav, hcfg, htcf, hlen, htop⟩ := hacc
  have hmin := chunkLength_toNat s.par len
  have hpos := toNat_pos_of_ne_zero hlen
  have hnz : chunkLength s.par len ≠ 0#16 := fun e => by
    rw [e, BitVec.toNat_ofNat] at hmin
    omega
  refine chunkInv_of_active hst ?_
  simp only [ActiveInv, hp, hk, hrem, hchunk, hsum]
  exact ⟨trivial, hcfg, hav, by omega, by omega, by omega, trivial, Nat.le_refl _, by simp [htcf, hnz], by omega,
    fun _ => by omega⟩

/-- SERVICE takes the completed chunk off REM: K2 with bytes left, K3 with none (R204). -/
theorem chunkInv_service {s t : State} (h : ActiveInv s) (htcf : s.kChan.tcf = true) (hp : t.par = s.par)
    (hk : t.kChan = { s.kChan with tcf := false })
    (hst : t.st = if s.rem - s.chunk.setWidth 32 = 0#32 then .done else .reloadNext)
    (hrem : t.rem = s.rem - s.chunk.setWidth 32) (hchunk : t.chunk = s.chunk) : ChunkInv t := by
  obtain ⟨hen, hcfg, hav, hlow, hcap, hle, -, -, hcnt, htop, hsrc⟩ := h
  have hcnt := hcnt.mp htcf
  have hleft : (s.rem - s.chunk.setWidth 32).toNat = s.rem.toNat - s.chunk.toNat := by bv_omega
  by_cases hz : s.rem - s.chunk.setWidth 32 = 0#32
  · refine chunkInv_of_done (by rw [hst, if_pos hz]) ?_
    simp only [DoneInv, hp, hk, hrem, hchunk]
    exact ⟨hen, hcnt, trivial, hz, hlow, hcap⟩
  · have hpos := toNat_pos_of_ne_zero hz
    refine chunkInv_of_reloadNext (by rw [hst, if_neg hz]) ?_
    simp only [ReloadNextInv, hp, hk, hrem, hchunk]
    exact ⟨hen, hcfg, hav, hcnt, trivial, hpos, hlow, hcap, hsrc (.inr (by omega)), by omega⟩

/-- RELOAD starts the next chunk of what is left: K1 again (R205). -/
theorem chunkInv_reload {s t : State} (h : ReloadNextInv s) (hcap : 1 ≤ s.par.cap.toNat) (hp : t.par = s.par)
    (hk : t.kChan = { s.kChan with cnt := chunkLength s.par s.rem })
    (hst : t.st = .active) (hrem : t.rem = s.rem) (hchunk : t.chunk = chunkLength s.par s.rem) : ChunkInv t := by
  obtain ⟨hen, hcfg, hav, -, htcf, hpos, -, -, hsrc, htop⟩ := h
  have hmin := chunkLength_toNat s.par s.rem
  have hnz : chunkLength s.par s.rem ≠ 0#16 := fun e => by
    rw [e, BitVec.toNat_ofNat] at hmin
    omega
  refine chunkInv_of_active hst ?_
  simp only [ActiveInv, hp, hk, hrem, hchunk]
  exact ⟨hen, hcfg, hav, by omega, by omega, by omega, trivial, Nat.le_refl _, by simp [htcf, hnz], by omega,
    fun _ => hsrc⟩

/-- A write to another channel than CH_K leaves the FSM alone (R5). -/
theorem RegWrite.fsm_of_ne {s : State} {i : Instr} {ch : ChIx} {d : Channel} {f : FsmRegs} (hw : RegWrite s i ch d f)
    (hne : ch ≠ s.par.chK) : f = s.fsm := by
  cases hw with
  | cfg | arm | en | dis | clrtc | req => rfl
  | _ => exact absurd rfl hne

/-- Every listed write to CH_K keeps R39. -/
theorem RegWrite.chunkInv_of_eq {s t : State} {i : Instr} {ch : ChIx} {d : Channel} {f : FsmRegs}
    (hw : RegWrite s i ch d f) (h : ChunkInv s) (hcap : 1 ≤ s.par.cap.toNat) (hch : ch = s.par.chK)
    (hp : t.par = s.par) (hk : t.kChan = d) (hf : t.fsm = f) : ChunkInv t := by
  obtain ⟨hactive, hreload, hdone⟩ := id h
  have hst : t.st = f.st := congrArg FsmRegs.st hf
  have hrem : t.rem = f.rem := congrArg FsmRegs.rem hf
  have hchunk : t.chunk = f.chunk := congrArg FsmRegs.chunk hf
  cases hw with
  | cfg hen => subst hch; exact chunkInv_of_idle (hst.trans (idle_of_disabled h hen))
  | arm hen => subst hch; exact chunkInv_of_idle (hst.trans (idle_of_disabled h hen))
  | en =>
    subst hch
    cases hen : s.kChan.en with
    | false => exact chunkInv_of_idle (hst.trans (idle_of_disabled h hen))
    | true =>
      have hsame : { s.kChan with en := true } = s.kChan := by rw [← hen]
      exact chunkInv_congr hp (hk.trans hsame) hf h
  | dis hne => exact absurd hch hne
  | clrtc hidle => exact chunkInv_of_idle (hst.trans (hidle.resolve_left fun hne => hne hch))
  | ckstart hacc => exact chunkInv_ckstart hacc hcap hp hk hst hrem hchunk
  | ckcancelIdle hidle => exact chunkInv_of_idle (hst.trans hidle)
  | req r hrun => subst hch; exact chunkInv_req r h hrun hp hk hf
  | service hs htcf => exact chunkInv_service (hactive hs) htcf hp hk hst hrem hchunk
  | reload hs => exact chunkInv_reload (hreload hs) hcap hp hk hst hrem hchunk
  | disK | ckcancel | buserr | finish => exact chunkInv_of_idle hst

/-- Every listed write keeps R39. -/
theorem RegWrite.chunkInv {s t : State} {i : Instr} {ch : ChIx} {d : Channel} {f : FsmRegs}
    (hw : RegWrite s i ch d f) (h : ChunkInv s) (hcap : 1 ≤ s.par.cap.toNat) (hin : s.par.chK.toNat < s.nCh)
    (hp : t.par = s.par) (hc : t.chans = (s.setChan ch d).chans) (hf : t.fsm = f) : ChunkInv t := by
  have hk : t.kChan = (s.setChan ch d).kChan := by
    rw [State.kChan, hp]
    exact State.chan_of_chans hc _
  by_cases hch : ch = s.par.chK
  · subst hch
    exact hw.chunkInv_of_eq h hcap rfl hp (hk.trans (State.kChan_setK s d hin)) hf
  · have hkeep : (s.setChan ch d).kChan = s.kChan := State.chan_setChan_ne s d (Ne.symm hch)
    exact chunkInv_congr hp (hk.trans hkeep) (hf.trans (hw.fsm_of_ne hch)) h

/-! ### The invariant of the machine -/

/-- What legal parameters give the chunk FSM: its channel exists and CAP is at least 1 (R5). -/
theorem wellFormed_chK_cap {p : Params} {n : Nat} (h : p.wellFormed n = true) : p.chK.toNat < n ∧ 1 ≤ p.cap.toNat := by
  simp only [Params.wellFormed, Bool.and_eq_true, decide_eq_true_eq] at h
  exact ⟨h.1.1.1.2, h.1.1.2⟩

/-- A step that writes the registers as listed keeps the invariant when memory and the store command keep theirs. -/
theorem inv_of_regWrite {s t : State} {i : Instr} {ch : ChIx} {d : Channel} {f : FsmRegs} (h : Inv s)
    (hw : RegWrite s i ch d f) (hp : t.par = s.par) (hc : t.chans = (s.setChan ch d).chans) (hf : t.fsm = f)
    (hstore : StoreInv t) (hmem : Memory.wf t.mem) : Inv t := by
  obtain ⟨hwf, hchans, hchunk, -, -⟩ := h
  obtain ⟨hin, hcap⟩ := wellFormed_chK_cap hwf
  have hn : t.nCh = s.nCh := (State.nCh_of_chans hc).trans (State.setChan_nCh s ch d)
  refine ⟨by rw [hp, hn]; exact hwf, fun c hcm => ?_, hw.chunkInv hchunk hcap hin hp hc hf, hstore, hmem⟩
  obtain rfl | hold := State.mem_setChan (hc ▸ hcm)
  · exact hw.channelInv (channelInv_chan hchans) hchunk
  · exact hchans c hold

/-- A step that writes no register keeps the invariant when memory and the store command keep theirs. -/
theorem inv_of_regs_kept {s t : State} (h : Inv s) (hp : t.par = s.par) (hc : t.chans = s.chans) (hf : t.fsm = s.fsm)
    (hstore : StoreInv t) (hmem : Memory.wf t.mem) : Inv t := by
  obtain ⟨hwf, hchans, hchunk, -, -⟩ := h
  have hk : t.kChan = s.kChan := by
    rw [State.kChan, hp]
    exact State.chan_of_chans hc _
  exact ⟨by rw [hp, State.nCh_of_chans hc]; exact hwf, hc ▸ hchans, chunkInv_congr hp hk hf hchunk, hstore, hmem⟩

/-- Memory stays canonical under an enabled `MemWrite` of one or two bytes (R66). -/
theorem memWrite_wf_of_accessible {s : State} {a n : Nat} {v : BitVec 16} (h : Memory.wf s.mem) (hn : n = 1 ∨ n = 2)
    (ha : accessible s.par a n = true) : Memory.wf (memWrite s a n v).mem := by
  rw [accessible_spec] at ha
  exact memWrite_wf h (mapped_lt (ha 0 (by omega))) fun h2 => mapped_lt (ha 1 (by omega))

/-- RST establishes the invariant for all legal parameters (R45, R280). -/
theorem inv_afterRst {s : State} (h : Inv s) : Inv s.afterRst := by
  obtain ⟨hwf, -, -, -, hmem⟩ := h
  have hn : s.afterRst.nCh = s.nCh := List.length_mapIdx
  refine ⟨by rw [hn]; exact hwf, fun c hc => ?_, chunkInv_of_idle rfl, rfl, hmem⟩
  obtain ⟨j, -, rfl⟩ := List.mem_mapIdx.mp hc
  exact channelInv_of_cleared rfl rfl rfl

/-- Every operation keeps the invariant. -/
theorem exec_inv {i : Instr} {s t : State} (h : Inv s) (he : exec i s = .next t) : Inv t := by
  obtain ⟨-, -, -, hstore, hmem⟩ := id h
  cases exec_effect he with
  | answer => exact inv_of_regs_kept h rfl rfl rfl hstore hmem
  | store _ j hlen htop => exact inv_of_regs_kept h rfl rfl rfl (by simp [StoreInv, hlen, htop]) hmem
  | write _ hw => exact inv_of_regWrite h hw rfl rfl rfl hstore hmem
  | @serve ch hrun hmap =>
    simp only [moveEnabled, Bool.and_eq_true] at hmap
    refine inv_of_regWrite h (.req _ hrun) ?_ (serve_chans s ch) (serve_fsm s ch) ?_ ?_
    · rw [serve_eq]
    · rw [serve_eq]; exact hstore
    · exact memWrite_wf_of_accessible hmem (elemSize_cases _) hmap.2
  | reset => exact inv_afterRst h

theorem State.writeByte_fsm (s : State) (a : Nat) (v : Byte) : (s.writeByte a v).fsm = s.fsm := by
  rw [State.writeByte_eq]; rfl

theorem memWrite_fsm (s : State) (a n : Nat) (v : BitVec 16) : (memWrite s a n v).fsm = s.fsm := by
  rw [memWrite_eq]; rfl

theorem storeInv_iff_of_some {s : State} {j : StoreJob} (h : s.store = some j) :
    StoreInv s ↔ 1 ≤ jobLength j ∧ j.next.toNat + jobLength j ≤ addrSpace := by
  simp [StoreInv, h]

/-- The rest of a store command ends where the whole did (R75, R131). -/
theorem takeByte_bounds {j j' : StoreJob} {b : Byte} (htake : takeByte j = some (b, j')) (hlen : 1 ≤ jobLength j')
    (htop : j.next.toNat + jobLength j ≤ addrSpace) : j'.next.toNat + jobLength j' ≤ addrSpace := by
  obtain ⟨hnext, hlong⟩ := takeByte_some htake
  rw [addrSpace_eq] at *
  rw [hnext]
  bv_omega

/-- The host's step inside a store command keeps the invariant (R131). -/
theorem hostByteStep_inv {s t : State} (h : Inv s) (he : hostByteStep s = .next t) : Inv t := by
  obtain ⟨-, -, -, hstore, hmem⟩ := id h
  have hwrite {j : StoreJob} (b : Byte) (hacc : accessible s.par j.next.toNat 1 = true) :
      Memory.wf (s.writeByte j.next.toNat b).mem :=
    State.writeByte_wf hmem (mapped_lt (accessible_spec.mp hacc 0 (by omega)))
  obtain ⟨-, e⟩ | ⟨j, -, -, e⟩ | ⟨j, b, j', -, -, -, e⟩ | ⟨j, b, j', -, -, hacc, -, e⟩ |
    ⟨j, b, j', hs, htake, hacc, hlen, e⟩ := hostByteStep_cases s <;> cases e.symm.trans he
  · exact h
  · exact inv_of_regs_kept h rfl rfl rfl rfl hmem
  · exact h
  · exact inv_of_regs_kept h (State.writeByte_par ..) (State.writeByte_chans ..) (State.writeByte_fsm ..) rfl
      (hwrite b hacc)
  · obtain ⟨-, htop⟩ := (storeInv_iff_of_some hs).mp hstore
    exact inv_of_regs_kept h (State.writeByte_par ..) (State.writeByte_chans ..) (State.writeByte_fsm ..)
      ((storeInv_iff_of_some rfl).mpr ⟨hlen, takeByte_bounds htake hlen htop⟩) (hwrite b hacc)

/-- A host access that is answered touches mapped bytes alone (R66). -/
theorem accessible_of_hostAccess {s t : State} {a : HostAccess} (h : hostAccess a s = .next t) :
    accessible s.par (accessRange a).1.toNat (accessRange a).2 = true := by
  simp only [hostAccess] at h
  split_ifs at h with _ hacc
  exact hacc

/-- The invariant after a `MemWrite` of the host's own. -/
theorem inv_memWrite {s : State} {a n : Nat} {v : BitVec 16} (h : Inv s) (hn : n = 1 ∨ n = 2)
    (ha : accessible s.par a n = true) : Inv (memWrite s a n v) := by
  obtain ⟨-, -, -, hstore, hmem⟩ := id h
  refine inv_of_regs_kept h (memWrite_par ..) (memWrite_chans ..) (memWrite_fsm ..) ?_
    (memWrite_wf_of_accessible hmem hn ha)
  rw [StoreInv, memWrite_store]
  exact hstore

/-- The host's own loads and stores keep the invariant. -/
theorem hostAccess_inv {a : HostAccess} {s t : State} (h : Inv s) (he : hostAccess a s = .next t) : Inv t := by
  have hacc := accessible_of_hostAccess he
  obtain rfl := hostAccess_next he
  cases a with
  | st8 addr v => exact inv_memWrite h (.inl rfl) hacc
  | st16 addr v => exact inv_memWrite h (.inr rfl) hacc
  | ld8 addr => exact h
  | ld16 addr => exact h

/-- Taking an entry off the schedule keeps the invariant, which does not speak of the schedule. -/
theorem inv_popInput {s : State} (h : Inv s) : Inv s.popInput := h

theorem inv_of_takenFrom {s u : State} (h : Inv s) (hu : TakenFrom s u) : Inv u := by
  obtain rfl | rfl := hu
  · exact h
  · exact inv_popInput h

/-- Settles O58, by the kinds of step of `step_next`; `RegWrite.channelInv` and `RegWrite.chunkInv` are its content. -/
theorem everyStepKeepsTheInvariant : Obligations.EveryStepKeepsTheInvariant := by
  intro s t h hstep
  obtain ⟨i, u, hu, hi⟩ | ⟨u, hu, hb⟩ | rfl | ⟨a, ha⟩ | rfl := step_next hstep
  · exact exec_inv (inv_of_takenFrom h hu) hi
  · exact hostByteStep_inv (inv_of_takenFrom h hu) hb
  · exact inv_popInput h
  · exact hostAccess_inv (inv_popInput h) ha
  · exact inv_popInput h

/-- Settles O59: the FSM is in Idle, no store command is in progress, and memory lists no byte. -/
theorem resetMeetsTheInvariant : Obligations.ResetMeetsTheInvariant := by
  refine ⟨by decide, fun c hc => ?_, chunkInv_of_idle rfl, rfl, Memory.wf_nil⟩
  obtain rfl := State.mem_reset_chans hc
  exact channelInv_atReset

end Sys2Proof.Machine

/-! The family of spec/20_memory.md: accesses that are not enabled (O34), channels that are disabled (O56), and the
operations that reach memory (O57). -/

namespace Sys2Proof.Machine

/-! ### Accesses that are not enabled -/

/-- One byte not mapped makes the range inaccessible (R66). -/
theorem not_accessible {p : Params} {a n j : Nat} (hj : j < n) (h : mapped p (a + j) = false) :
    accessible p a n = false :=
  Bool.eq_false_iff.mpr fun hacc => Bool.eq_false_iff.mp h (accessible_spec.mp hacc j hj)

/-- One byte of the element not mapped, at the source or at the destination, disables the move (R66, R180). -/
theorem not_moveEnabled {p : Params} {c : Channel} {j : Nat} (hj : j < elemSize c.cfg)
    (h : mapped p (c.cur.toNat + j) = false ∨ mapped p (c.dst.toNat + j) = false) : moveEnabled p c = false := by
  obtain hcur | hdst := h
  · simp [moveEnabled, not_accessible hj hcur]
  · simp [moveEnabled, not_accessible hj hdst]

/-- An enabled move writes to a mapped, so existing, address (R60, R180). -/
theorem dst_lt_of_moveEnabled {p : Params} {c : Channel} (h : moveEnabled p c = true) : c.dst.toNat < addrSpace := by
  simp only [moveEnabled, Bool.and_eq_true] at h
  have hsize : 0 < elemSize c.cfg := by obtain e | e := elemSize_cases c.cfg <;> omega
  exact mapped_lt (accessible_spec.mp h.2 0 hsize)

/-- A request whose move is not enabled has no effect (R66, R180). -/
theorem execReq_of_not_moveEnabled {s : State} {ch : ChIx} (hch : ch.toNat < s.nCh)
    (h : moveEnabled s.par (s.chan ch) = false) : execReq ch s = .next s := by
  simp [execReq, hch, h]

/-- A byte that a store command cannot write leaves the host where it is (R66, R131). -/
theorem hostByteStep_of_unmapped {s : State} {j : StoreJob} (hs : s.store = some j) (hlen : 1 ≤ jobLength j)
    (h : mapped s.par j.next.toNat = false) : hostByteStep s = .next s := by
  have hacc : accessible s.par j.next.toNat 1 = false := not_accessible Nat.one_pos h
  cases htake : takeByte j with
  | none => have := takeByte_none.mp htake; omega
  | some => simp [hostByteStep, hs, htake, hacc]

/-- The host's byte turn in the schedule is the host's step with the entry taken off (R131). -/
theorem step_of_hostByte {s : State} {rest : List Input} (h : s.sched = .hostByte :: rest) :
    step s = hostByteStep { s with sched := rest } := by
  rw [← State.popInput_of_sched h]
  exact step_of_due_answered (by simp only [due, h])

/-- Settles O34: `not_moveEnabled` for the request, `hostByteStep_of_unmapped` for the encoder's byte. -/
theorem unmappedAccessesAreStuck : Obligations.UnmappedAccessesAreStuck := by
  refine ⟨fun s ch hch _ _ ⟨j, hj, hhole⟩ => ?_, fun s j rest hs hlen hhole hsched => ?_⟩
  · exact execReq_of_not_moveEnabled hch (not_moveEnabled hj hhole)
  · rw [step_of_hostByte hsched]
    exact hostByteStep_of_unmapped hs hlen hhole

/-! ### Disabled channels -/

/-- CFG leaves the log alone (R151). -/
theorem configure_out (c : Channel) (f : CfgFields) : (configure c f).out = c.out := by
  obtain ⟨-, -, e⟩ | ⟨-, e⟩ := configure_cases c f <;> rw [e]

/-- Only a request on a running channel writes its log (R40, R180). -/
theorem RegWrite.writer_of_out {s : State} {i : Instr} {ch : ChIx} {d : Channel} {f : FsmRegs}
    (hw : RegWrite s i ch d f) (hne : d.out ≠ (s.chan ch).out) : i = .req ch ∧ running (s.chan ch) = true := by
  cases hw with
  | req _ hrun => exact ⟨rfl, hrun⟩
  | @cfg _ fields => exact absurd (configure_out (s.chan ch) fields) hne
  | _ => exact absurd rfl hne

/-- After RST every channel, existing or not, is disabled and its log empty (R45, R280). -/
theorem State.afterRst_chan (s : State) (ch : ChIx) :
    (s.afterRst.chan ch).en = false ∧ (s.afterRst.chan ch).out = [] := by
  by_cases hch : ch.toNat < s.afterRst.nCh
  · obtain ⟨n, -, e⟩ := List.mem_mapIdx.mp (State.chan_mem hch)
    rw [← e]
    exact ⟨rfl, rfl⟩
  · rw [State.chan, List.getD_eq_default _ _ (Nat.le_of_not_lt hch)]
    exact ⟨rfl, rfl⟩

/-- Settles O56: outside RST, EN and the log change only by the writers of `RegWrite`, and of these only the excluded
EN and CKSTART enable a channel, while REQ needs it running. -/
theorem disabledChannelMovesNothing : Obligations.DisabledChannelMovesNothing := by
  intro i s t ch h hen hnoEn hnoStart
  by_cases hrst : i = .rst
  · subst hrst
    cases h
    obtain ⟨hen', hout⟩ := s.afterRst_chan ch
    exact ⟨hen', .inr ⟨rfl, hout⟩⟩
  obtain hkeep | ⟨d, f, hw, hd⟩ := exec_chan h hrst ch
  · exact ⟨hkeep ▸ hen, .inl (by rw [hkeep])⟩
  rw [hd]
  constructor
  · by_contra hon
    have hne : d.en ≠ (s.chan ch).en := fun e => hon (e.trans hen)
    obtain ⟨-, rfl | ⟨hk, l, o, rfl⟩⟩ | ⟨hoff, -⟩ := hw.writer_of_en hne
    · exact hnoEn rfl
    · exact hnoStart hk l o rfl
    · exact hon hoff
  · by_contra hgrown
    obtain ⟨-, hrun⟩ := hw.writer_of_out fun e => hgrown (.inl e)
    obtain ⟨hon, -⟩ := running_iff.mp hrun
    simp [hen] at hon

/-! ### The operations that reach memory -/

/-- An operation leaves memory alone, or is a request that is served (R60, R181). -/
theorem exec_mem {i : Instr} {s t : State} (h : exec i s = .next t) :
    t.mem = s.mem ∨ ∃ ch, i = .req ch ∧ moveEnabled s.par (s.chan ch) = true ∧ t = serve s ch := by
  cases exec_effect h with
  | serve _ hmap => exact .inr ⟨_, rfl, hmap, rfl⟩
  | answer | store | write | reset => exact .inl rfl

/-- Serving a request leaves every byte outside the element's destination alone (R65, R181). -/
theorem serve_byte_outside {s : State} {ch : ChIx} {a : Nat} (hwf : Memory.wf s.mem)
    (hmap : moveEnabled s.par (s.chan ch) = true)
    (ha : a < (s.chan ch).dst.toNat ∨ (s.chan ch).dst.toNat + elemSize (s.chan ch).cfg ≤ a) :
    (serve s ch).byte a = s.byte a := by
  have hsize := elemSize_cases (s.chan ch).cfg
  calc (serve s ch).byte a
      = (memWrite s (s.chan ch).dst.toNat (elemSize (s.chan ch).cfg) (movedRecord s ch).value).byte a :=
        State.byte_of_mem rfl a
    _ = s.byte a := memWrite_byte_other hwf (dst_lt_of_moveEnabled hmap) (by omega) fun _ => by omega

/-- Settles O57: by `exec_mem` only a served request writes, and its bytes are those of `serve_byte_outside`. -/
theorem onlyStoresAndMovesReachMemory : Obligations.OnlyStoresAndMovesReachMemory := by
  intro i s t hwf h
  obtain hkeep | ⟨ch, rfl, hmap, rfl⟩ := exec_mem h
  · exact ⟨fun _ => State.byte_of_mem hkeep, fun _ _ a _ => State.byte_of_mem hkeep a⟩
  · refine ⟨fun hno => absurd rfl (hno ch), fun c hc a ha => ?_⟩
    cases hc
    exact serve_byte_outside hwf hmap ha

end Sys2Proof.Machine

/-! The family of spec/30_encoding.md: decoder and encoder undo each other (O3, O4, O5), the rows of
spec/opcode_table.json are the decoder's domain (O6), what becomes of every command word (O8), and what runs with
nothing scheduled (O10). -/

namespace Sys2Proof

/-! ### Fields with a reserved part, and the field of ENCPX's four bytes (R91, R95) -/

/-- A field whose high part is zero is its low part, extended. -/
theorem zero_append_low {hi lo : Nat} {x : BitVec (hi + lo)} (h : x.extractLsb' lo hi = 0#hi) :
    0#hi ++ x.extractLsb' 0 lo = x := by
  rw [← h, BitVec.extractLsb'_append_extractLsb']

/-- The mask of a field's high part clears a field exactly when that part is zero. -/
theorem and_highMask_eq_zero {hi lo : Nat} (x : BitVec (hi + lo)) :
    x &&& (BitVec.allOnes hi ++ 0#lo) = 0#(hi + lo) ↔ x.extractLsb' lo hi = 0#hi := by
  rw [← BitVec.extractLsb'_append_extractLsb' (x := x), BitVec.and_append, BitVec.extractLsb'_append_eq_left,
    BitVec.and_allOnes, BitVec.and_zero, ← BitVec.zero_append_zero, BitVec.append_left_inj]

/-- The four bytes of a field packed from four bytes. -/
theorem extract_bytes (z r g bl : Byte) :
    (z ++ r ++ g ++ bl).extractLsb' 24 8 = z ∧ (z ++ r ++ g ++ bl).extractLsb' 16 8 = r
      ∧ (z ++ r ++ g ++ bl).extractLsb' 8 8 = g ∧ (z ++ r ++ g ++ bl).extractLsb' 0 8 = bl := by
  have skip {v : Nat} (x : BitVec v) (y : Byte) (start : Nat) :
      (x ++ y).extractLsb' (start + 8) 8 = x.extractLsb' start 8 :=
    BitVec.extractLsb'_append_eq_of_le (Nat.le_add_left ..)
  refine ⟨?_, ?_, ?_, BitVec.extractLsb'_append_eq_right⟩
  · exact (skip _ _ 16).trans ((skip _ _ 8).trans BitVec.extractLsb'_append_eq_left)
  · exact (skip _ _ 8).trans ((skip _ _ 0).trans BitVec.extractLsb'_append_eq_right)
  · exact (skip _ _ 0).trans BitVec.extractLsb'_append_eq_right

/-- A 32-bit field is its four bytes, packed. -/
theorem append_bytes (b : BitVec 32) :
    b.extractLsb' 24 8 ++ b.extractLsb' 16 8 ++ b.extractLsb' 8 8 ++ b.extractLsb' 0 8 = b := by
  have h16 : b.extractLsb' 24 8 ++ b.extractLsb' 16 8 = b.extractLsb' 16 16 :=
    BitVec.extractLsb'_append_extractLsb'_eq_extractLsb' rfl
  have h8 : b.extractLsb' 16 16 ++ b.extractLsb' 8 8 = b.extractLsb' 8 24 :=
    BitVec.extractLsb'_append_extractLsb'_eq_extractLsb' rfl
  rw [h16, h8]
  exact BitVec.extractLsb'_append_extractLsb'

/-! The three fields with a reserved part: CFG's descriptor, the encoder's value, and ENCPX's pixel. -/

theorem cfgAux_and_mask (aux : BitVec 16) :
    aux &&& (BitVec.allOnes 10 ++ 0#6) = 0#16 ↔ aux.extractLsb' 6 10 = 0#10 :=
  and_highMask_eq_zero (hi := 10) (lo := 6) aux

theorem cfgAux_of_clear {aux : BitVec 16} (h : aux.extractLsb' 6 10 = 0#10) :
    0#10 ++ aux.extractLsb' 0 6 = aux :=
  zero_append_low (hi := 10) (lo := 6) h

theorem valueAux_and_mask (aux : BitVec 16) :
    aux &&& (BitVec.allOnes 8 ++ 0#8) = 0#16 ↔ aux.extractLsb' 8 8 = 0#8 :=
  and_highMask_eq_zero (hi := 8) (lo := 8) aux

theorem valueAux_of_clear {aux : BitVec 16} (h : aux.extractLsb' 8 8 = 0#8) : 0#8 ++ aux.extractLsb' 0 8 = aux :=
  zero_append_low (hi := 8) (lo := 8) h

theorem pixelField_and_mask (b : BitVec 32) :
    b &&& (BitVec.allOnes 8 ++ 0#24) = 0#32 ↔ b.extractLsb' 24 8 = 0#8 :=
  and_highMask_eq_zero (hi := 8) (lo := 24) b

theorem pixelField_of_clear {b : BitVec 32} (h : b.extractLsb' 24 8 = 0#8) :
    0#8 ++ b.extractLsb' 16 8 ++ b.extractLsb' 8 8 ++ b.extractLsb' 0 8 = b := h ▸ append_bytes b

/-! ### Decoding what was encoded -/

theorem decode_packCmd (op : Byte) (ch : ChIx) (aux : BitVec 16) (a b c : BitVec 32) :
    decode (.cmd (packCmd op ch aux a b c)) = decodeFields op ch aux a b c := by
  simp [decode, decodeCmd]

/-- The decoder reads every operand back. Only four commands have an operand that shares its field with reserved bits
or other operands; the fields of the rest are operands or zero. -/
theorem decode_encode (i : Instr) : decode (encode i) = .ok i := by
  cases i with
  | cfg ch f =>
    have hhigh : (0#10 ++ cfgToBits f).extractLsb' 6 10 = 0#10 := BitVec.extractLsb'_append_eq_left
    have hlow : (0#10 ++ cfgToBits f).extractLsb' 0 6 = cfgToBits f := BitVec.extractLsb'_append_eq_right
    simp [encode, decode_packCmd, decodeFields, whenClear, hhigh, hlow]
  | encq value | encst addr value =>
    have hhigh : (0#8 ++ value).extractLsb' 8 8 = 0#8 := BitVec.extractLsb'_append_eq_left
    have hlow : (0#8 ++ value).extractLsb' 0 8 = value := BitVec.extractLsb'_append_eq_right
    simp [encode, decode_packCmd, decodeFields, whenClear, hhigh, hlow]
  | encpx addr r g bl =>
    obtain ⟨hz, hr, hg, hbl⟩ := extract_bytes 0#8 r g bl
    simp [encode, decode_packCmd, decodeFields, whenClear, hz, hr, hg, hbl]
  | arm | ckstart | encrst | period => exact decode_packCmd ..
  | en | dis | runq | cntq | tcq | clrtc => exact decode_packCmd ..
  | ckcancel | ckstat | order => exact decode_packCmd ..
  | req ch => simp [encode, decode, decodeLabel]
  | buserr | rst | service | reload | finish => rfl

/-- Settles O4, by the constructors of the operation. -/
theorem decodeOfEncode : Obligations.DecodeOfEncode := decode_encode

/-- Settles O3: each word is the encoding of its operation, and `decode_encode` reads it back. -/
theorem specWordsDecode : Obligations.SpecWordsDecode := by
  intro x hx
  have henc : encode x.2 = x.1 := by revert x; decide
  exact ⟨henc ▸ decode_encode x.2, henc⟩

/-! ### The rows of the opcode table by their fields (R96) -/

theorem cmdWord_ext_iff {u w : CmdWord} :
    u = w ↔ opField u = opField w ∧ chField u = chField w ∧ auxField u = auxField w
      ∧ aField u = aField w ∧ bField u = bField w ∧ cField u = cField w := by
  refine ⟨by rintro rfl; simp, fun ⟨hop, hch, haux, ha, hb, hc⟩ => ?_⟩
  rw [← packCmd_fields u, ← packCmd_fields w, hop, hch, haux, ha, hb, hc]

/-- Masking a command word masks its fields. -/
theorem fields_and (u w : CmdWord) :
    opField (u &&& w) = opField u &&& opField w ∧ chField (u &&& w) = chField u &&& chField w
      ∧ auxField (u &&& w) = auxField u &&& auxField w ∧ aField (u &&& w) = aField u &&& aField w
      ∧ bField (u &&& w) = bField u &&& bField w ∧ cField (u &&& w) = cField u &&& cField w :=
  ⟨BitVec.extractLsb'_and, BitVec.extractLsb'_and, BitVec.extractLsb'_and, BitVec.extractLsb'_and,
    BitVec.extractLsb'_and, BitVec.extractLsb'_and⟩

/-- A command row by its fields: the value of `op`, and the reserved bits of each other field. -/
def fieldRow (mnemonic : String) (op : Byte) (ch : ChIx) (aux : BitVec 16) (a b c : BitVec 32) : TableRow 128 :=
  ⟨mnemonic, packCmd op 0 0 0 0 0, packCmd (.allOnes 8) ch aux a b c⟩

theorem fieldRow_selects_iff (m : String) (op : Byte) (ch : ChIx) (aux : BitVec 16) (a b c : BitVec 32)
    (w : CmdWord) :
    (fieldRow m op ch aux a b c).selects w = true ↔
      opField w = op ∧ chField w &&& ch = 0#8 ∧ auxField w &&& aux = 0#16
        ∧ aField w &&& a = 0#32 ∧ bField w &&& b = 0#32 ∧ cField w &&& c = 0#32 := by
  rw [TableRow.selects, beq_iff_eq, cmdWord_ext_iff]
  simp only [fieldRow, fields_and, opField_packCmd, chField_packCmd, auxField_packCmd, aField_packCmd,
    bField_packCmd, cField_packCmd, BitVec.and_allOnes, BitVec.ofNat_eq_ofNat]

/-- The command rows of spec/opcode_table.json are the rows of R91: a field that is no operand is reserved. -/
theorem commandRows_eq : commandRows =
    [ fieldRow "CFG"      0x01 0            (BitVec.allOnes 10 ++ 0#6) (.allOnes 32) (.allOnes 32) (.allOnes 32),
      fieldRow "ARM"      0x02 0            (.allOnes 16)        0             0             0,
      fieldRow "EN"       0x03 0            (.allOnes 16)        (.allOnes 32) (.allOnes 32) (.allOnes 32),
      fieldRow "DIS"      0x04 0            (.allOnes 16)        (.allOnes 32) (.allOnes 32) (.allOnes 32),
      fieldRow "RUNQ"     0x05 0            (.allOnes 16)        (.allOnes 32) (.allOnes 32) (.allOnes 32),
      fieldRow "CNTQ"     0x06 0            (.allOnes 16)        (.allOnes 32) (.allOnes 32) (.allOnes 32),
      fieldRow "TCQ"      0x07 0            (.allOnes 16)        (.allOnes 32) (.allOnes 32) (.allOnes 32),
      fieldRow "CLRTC"    0x08 0            (.allOnes 16)        (.allOnes 32) (.allOnes 32) (.allOnes 32),
      fieldRow "CKSTART"  0x10 (.allOnes 8) (.allOnes 16)        0             0             (.allOnes 32),
      fieldRow "CKCANCEL" 0x11 (.allOnes 8) (.allOnes 16)        (.allOnes 32) (.allOnes 32) (.allOnes 32),
      fieldRow "CKSTAT"   0x12 (.allOnes 8) (.allOnes 16)        (.allOnes 32) (.allOnes 32) (.allOnes 32),
      fieldRow "ENCQ"     0x20 (.allOnes 8) (BitVec.allOnes 8 ++ 0#8)  (.allOnes 32) (.allOnes 32) (.allOnes 32),
      fieldRow "ENCST"    0x21 (.allOnes 8) (BitVec.allOnes 8 ++ 0#8)  0             (.allOnes 32) (.allOnes 32),
      fieldRow "ENCPX"    0x22 (.allOnes 8) (.allOnes 16)        0      (BitVec.allOnes 8 ++ 0#24) (.allOnes 32),
      fieldRow "ENCRST"   0x23 (.allOnes 8) (.allOnes 16)        0             (.allOnes 32) 0,
      fieldRow "ORDER"    0x24 (.allOnes 8) (.allOnes 16)        (.allOnes 32) (.allOnes 32) (.allOnes 32),
      fieldRow "PERIOD"   0x25 (.allOnes 8) (.allOnes 16)        0             0             0 ] := by decide

/-- A label row by its fields: the value of `kind`, and the reserved bits of `ch`. -/
def kindRow (mnemonic : String) (kind : Byte) (ch : ChIx) : TableRow 16 :=
  ⟨mnemonic, packLabel kind 0, packLabel (.allOnes 8) ch⟩

theorem packLabel_inj {kind kind' : Byte} {ch ch' : ChIx} :
    packLabel kind ch = packLabel kind' ch' ↔ kind = kind' ∧ ch = ch' := by
  refine ⟨fun h => ⟨?_, ?_⟩, fun ⟨hk, hc⟩ => hk ▸ hc ▸ rfl⟩
  · simpa using congrArg (BitVec.extractLsb' 8 8) h
  · simpa using congrArg (BitVec.extractLsb' 0 8) h

theorem kindRow_selects_iff (m : String) (kind k : Byte) (mask ch : ChIx) :
    (kindRow m kind mask).selects (packLabel k ch) = true ↔ k = kind ∧ ch &&& mask = 0#8 := by
  have hand : packLabel k ch &&& packLabel (.allOnes 8) mask = packLabel k (ch &&& mask) := by
    refine BitVec.and_append.trans ?_
    rw [BitVec.and_allOnes, packLabel]
  rw [TableRow.selects, beq_iff_eq, kindRow, hand, packLabel_inj, BitVec.ofNat_eq_ofNat]

theorem labelRows_eq : labelRows =
    [ kindRow "REQ" 0x80 0, kindRow "BUSERR" 0x81 (.allOnes 8), kindRow "RST" 0x82 (.allOnes 8),
      kindRow "SERVICE" 0x90 (.allOnes 8), kindRow "RELOAD" 0x91 (.allOnes 8),
      kindRow "FINISH" 0x92 (.allOnes 8) ] := by decide

/-! ### A decoder that agrees with its rows -/

/-- The decoder's answer `d` to the word `w` agrees with the port's rows and with the encoder. -/
structure Agrees {n : Nat} (rows : List (TableRow n)) (port : BitVec n → PortWord) (w : BitVec n)
    (d : Except DecodeErr Instr) : Prop where
  legal_iff : (∃ i, d = .ok i) ↔ ∃ r ∈ rows, r.selects w = true
  encode_eq : ∀ i, d = .ok i → encode i = port w

section
variable {n : Nat} {rows : List (TableRow n)} {port : BitVec n → PortWord} {w : BitVec n}

/-- A decoder's arm agrees when its guard says what a row says, and its operation is encoded as the word. -/
theorem agrees_ite {clear : Bool} {i : Instr} {e : DecodeErr}
    (hrow : clear = true ↔ ∃ r ∈ rows, r.selects w = true)
    (henc : clear = true → encode i = port w) : Agrees rows port w (if clear then .ok i else .error e) := by
  cases clear with
  | true => exact ⟨⟨fun _ => hrow.mp rfl, fun _ => ⟨i, rfl⟩⟩, fun j hj => by cases hj; exact henc rfl⟩
  | false => exact ⟨⟨fun ⟨_, hj⟩ => (nomatch hj), fun h => nomatch hrow.mpr h⟩, fun _ hj => nomatch hj⟩

/-- The values a port's rows give to the byte of the word that selects the operation, at bit `start`. -/
def selectors (start : Nat) (rows : List (TableRow n)) : List Byte :=
  rows.map fun r => r.pattern.extractLsb' start 8

/-- A row whose mask covers the selecting byte selects only words with its value there. -/
theorem selector_mem_of_selects {start : Nat} (hmask : ∀ r ∈ rows, r.mask.extractLsb' start 8 = .allOnes 8)
    {r : TableRow n} (hr : r ∈ rows) (hw : r.selects w = true) : w.extractLsb' start 8 ∈ selectors start rows := by
  have hpat : w &&& r.mask = r.pattern := beq_iff_eq.mp hw
  refine List.mem_map.mpr ⟨r, hr, ?_⟩
  rw [← hpat, BitVec.extractLsb'_and, hmask r hr, BitVec.and_allOnes]

/-- Rejecting a word agrees with the rows when none of them has its selecting byte (R97). -/
theorem agrees_error {start : Nat} (hmask : ∀ r ∈ rows, r.mask.extractLsb' start 8 = .allOnes 8)
    {sel : Byte} (hsel : w.extractLsb' start 8 = sel) (h : sel ∉ selectors start rows) (e : DecodeErr) :
    Agrees rows port w (.error e) := by
  refine ⟨⟨fun ⟨_, hi⟩ => (nomatch hi), fun ⟨_, hr, hw⟩ => absurd ?_ h⟩, fun _ hi => nomatch hi⟩
  exact hsel ▸ selector_mem_of_selects hmask hr hw

end

/-! ### The command port -/

theorem agrees_whenClear {w : CmdWord} {op : Byte} {clear : Bool} {i : Instr}
    (hrow : clear = true ↔ ∃ r ∈ commandRows, r.selects w = true) (henc : clear = true → encode i = .cmd w) :
    Agrees commandRows .cmd w (whenClear op clear i) := agrees_ite hrow henc

/-- The seventeen values of `op` (R91). -/
theorem selectors_commandRows : selectors 120 commandRows =
    [0x01#8, 0x02#8, 0x03#8, 0x04#8, 0x05#8, 0x06#8, 0x07#8, 0x08#8, 0x10#8, 0x11#8, 0x12#8, 0x20#8, 0x21#8, 0x22#8,
      0x23#8, 0x24#8, 0x25#8] := by decide

theorem decodeFields_of_unknown {op : Byte} (h : op ∉ selectors 120 commandRows) (ch : ChIx) (aux : BitVec 16)
    (a b c : BitVec 32) : decodeFields op ch aux a b c = .error (.unknownOp op) := by
  simp only [selectors_commandRows, List.mem_cons, BitVec.toNat_eq, BitVec.toNat_ofNat, not_or] at h
  unfold decodeFields
  split
  case h_18 => rfl
  all_goals omega

/-- R91 and R96, one `op` after the other: the decoder's guard is the row's mask, and the fields outside the mask are
the operands. -/
theorem agrees_decodeFields (op : Byte) (ch : ChIx) (aux : BitVec 16) (a b c : BitVec 32) :
    Agrees commandRows .cmd (packCmd op ch aux a b c) (decodeFields op ch aux a b c) := by
  by_cases h : op ∈ selectors 120 commandRows
  case neg =>
    rw [decodeFields_of_unknown h]
    exact agrees_error (by decide) (opField_packCmd op ch aux a b c) h _
  simp only [selectors_commandRows, List.mem_cons, List.not_mem_nil, or_false] at h
  obtain rfl | rfl | rfl | rfl | rfl | rfl | rfl | rfl | rfl | rfl | rfl | rfl | rfl | rfl | rfl | rfl | rfl := h
  all_goals
    refine agrees_whenClear ?_ fun hclear => ?_
    · simp only [commandRows_eq, List.mem_cons, List.not_mem_nil, or_false, exists_eq_or_imp, exists_eq_left,
        fieldRow_selects_iff, BitVec.and_allOnes, BitVec.and_zero, cfgAux_and_mask, valueAux_and_mask,
        pixelField_and_mask, BitVec.ofNat_eq_ofNat]
      simp [and_assoc]
    · simp only [Bool.and_eq_true, beq_iff_eq, and_assoc] at hclear
      simp [encode, hclear, cfgAux_of_clear, valueAux_of_clear, pixelField_of_clear]

theorem agrees_decodeCmd (w : CmdWord) : Agrees commandRows .cmd w (decodeCmd w) := by
  have h := agrees_decodeFields (opField w) (chField w) (auxField w) (aField w) (bField w) (cField w)
  rwa [packCmd_fields] at h

/-! ### The label port -/

/-- The six values of `kind` (R98). -/
theorem selectors_labelRows : selectors 8 labelRows = [0x80#8, 0x81#8, 0x82#8, 0x90#8, 0x91#8, 0x92#8] := by decide

theorem decodeLabel_of_unknown {kind : Byte} (h : kind ∉ selectors 8 labelRows) (ch : ChIx) :
    decodeLabel (packLabel kind ch) = .error (.noSuchStep (packLabel kind ch)) := by
  simp only [selectors_labelRows, List.mem_cons, BitVec.toNat_eq, BitVec.toNat_ofNat, not_or] at h
  rw [decodeLabel, kind_packLabel]
  split
  case h_7 => rfl
  all_goals omega

/-- R98, one `kind` after the other: REQ takes any `ch`, the others only 0. -/
theorem agrees_decodeLabel_packLabel (kind : Byte) (ch : ChIx) :
    Agrees labelRows .evt (packLabel kind ch) (decodeLabel (packLabel kind ch)) := by
  by_cases h : kind ∈ selectors 8 labelRows
  case neg =>
    rw [decodeLabel_of_unknown h]
    exact agrees_error (by decide) (kind_packLabel kind ch) h _
  simp only [selectors_labelRows, List.mem_cons, List.not_mem_nil, or_false] at h
  rw [decodeLabel, kind_packLabel, ch_packLabel]
  obtain rfl | rfl | rfl | rfl | rfl | rfl := h
  case inl =>
    refine agrees_ite (clear := true) (e := .noSuchStep 0) ?_ fun _ => rfl
    simp [labelRows_eq, kindRow_selects_iff]
  all_goals
    refine agrees_ite ?_ fun hclear => ?_
    · simp [labelRows_eq, kindRow_selects_iff, -BitVec.reduceAllOnes]
    · simp only [ch_packLabel, beq_iff_eq] at hclear
      rw [hclear]; rfl

theorem agrees_decodeLabel (w : LabelWord) : Agrees labelRows .evt w (decodeLabel w) := by
  rw [← packLabel_fields w]
  exact agrees_decodeLabel_packLabel ..

/-- Settles O5: on both ports the decoder agrees with the encoder. -/
theorem encodeOfDecode : Obligations.EncodeOfDecode := by
  intro p i h
  cases p with
  | cmd w => exact (agrees_decodeCmd w).encode_eq i h
  | evt w => exact (agrees_decodeLabel w).encode_eq i h

/-- Settles O6: on both ports the decoder agrees with the rows. -/
theorem wordDecodesIffATableRowSelectsIt : Obligations.WordDecodesIffATableRowSelectsIt :=
  ⟨fun w => (agrees_decodeCmd w).legal_iff, fun w => (agrees_decodeLabel w).legal_iff⟩

/-- What is encoded on the command port is a host command (R98, R100). -/
theorem isCommand_of_encode {i : Instr} {w : CmdWord} (h : encode i = .cmd w) : i.isCommand = true := by
  cases i with
  | req | buserr | rst | service | reload | finish => nomatch h
  | _ => rfl

end Sys2Proof

namespace Sys2Proof.Machine

/-! ### Legal and illegal command words at the head of the schedule -/

/-- A command word that does not decode is answered E_OP once the host's last command has responded (R96, R97). -/
theorem step_of_illegal_cmd {s : State} {w : CmdWord} {rest : List Input} {e : DecodeErr}
    (h : s.sched = .cmd w :: rest) (hs : s.store = none) (hd : decodeCmd w = .error e) :
    step s = reject { s with sched := rest } .eOp := by
  have hdue : due s = .answered (reject s.popInput .eOp) := by
    simp only [due, h, hd]
    exact hostTurn_of_free hs _
  rw [step_of_due_answered hdue, State.popInput_of_sched h]

/-- Settles O8: the rows decide by `agrees_decodeCmd` whether the word is an operation, and what decodes from a command
word is a host command. -/
theorem everyWordIsACommandOrIllegal : Obligations.EveryWordIsACommandOrIllegal := by
  intro s w rest h hs
  obtain ⟨hlegal, hencode⟩ := agrees_decodeCmd w
  constructor
  · intro hnone
    cases hd : decodeCmd w with
    | ok i =>
      obtain ⟨r, hr, hw⟩ := hlegal.mp ⟨i, hd⟩
      rw [hnone r hr] at hw
      nomatch hw
    | error e => exact step_of_illegal_cmd h hs hd
  · intro hrow
    obtain ⟨i, hd⟩ := hlegal.mpr hrow
    exact ⟨i, isCommand_of_encode (hencode i hd), hd, step_of_cmd h hs hd⟩

/-! ### With nothing scheduled -/

theorem due_of_nil {s : State} (h : s.sched = []) : due s = ownStep s := by simp only [due, h]

theorem hostByteStep_of_free {s : State} (h : s.store = none) : hostByteStep s = .next s := by
  simp only [hostByteStep, h]

/-- No step of the FSM's is enabled: it is the host's turn (log entry 7). -/
theorem ownStep_of_waiting {s : State} (h : s.st = .idle ∨ s.st = .active ∧ s.kChan.tcf = false) :
    ownStep s = .answered (hostByteStep s) := by
  obtain hst | ⟨hst, htcf⟩ := h
  · simp [ownStep, serviceEnabled, hst]
  · simp [ownStep, serviceEnabled, hst, htcf]

/-- Settles O10, by the state of the FSM. -/
theorem unscheduledStepsAreTheFsmsOwn : Obligations.UnscheduledStepsAreTheFsmsOwn := by
  intro s h
  have hdue : due s = ownStep s := due_of_nil h
  have hwait (hst : s.st = .idle ∨ s.st = .active ∧ s.kChan.tcf = false) : step s = hostByteStep s :=
    step_of_due_answered (hdue.trans (ownStep_of_waiting hst))
  refine ⟨fun hst htcf => ?_, fun hst => ?_, fun hst => ?_, fun hst htcf => hwait (.inr ⟨hst, htcf⟩),
    fun hst => hwait (.inl hst), fun hst hs => (hwait (.inl hst)).trans (hostByteStep_of_free hs)⟩
  · exact step_of_due_run (hdue.trans (by simp [ownStep, serviceEnabled, hst, htcf]))
  · exact step_of_due_run (hdue.trans (by simp [ownStep, serviceEnabled, hst]))
  · exact step_of_due_run (hdue.trans (by simp [ownStep, serviceEnabled, hst]))

end Sys2Proof.Machine

/-! The family of spec/40_bit_encoder.md: the encoder's store commands, from their checks (O18) to the bytes in memory
(O19); its functions (O12, O13, O14); and the commands that answer at once (O15, O16, O17). -/

namespace Sys2Proof.Machine

/-! ### The meanings of the encoder's commands -/

theorem exec_encq (v : Byte) (s : State) : exec (.encq v) s = respond s (byteLanes (ledEnc s.par v)) := rfl

theorem exec_encst (addr : Addr) (v : Byte) (s : State) :
    exec (.encst addr v) s = beginStore s addr (ledEnc s.par v) 0 := rfl

theorem exec_encpx (addr : Addr) (r g bl : Byte) (s : State) :
    exec (.encpx addr r g bl) s = beginStore s addr (ledPixel s.par r g bl) 0 := rfl

theorem exec_encrst (addr : Addr) (n : BitVec 32) (s : State) :
    exec (.encrst addr n) s = beginStore s addr [] n.toNat := rfl

/-! ### How a store command begins -/

section
variable {s : State} {addr : Addr} {bytes : List Byte} {zeros n : Nat}

/-- The bytes end below 2^32: their writes are the host's next steps (R75, R131). -/
theorem beginStore_of_fits (hn : bytes.length + zeros = n) (hpos : 1 ≤ n) (htop : addr.toNat + n ≤ 2 ^ 32) :
    beginStore s addr bytes zeros = .next { s with store := some ⟨addr, bytes, zeros⟩, rsp := none } := by
  obtain ⟨hpast, -⟩ | ⟨-, hempty, -⟩ | ⟨-, -, e⟩ := beginStore_cases s addr bytes zeros
  · rw [addrSpace_eq] at hpast
    omega
  · omega
  · exact e

/-- The bytes pass the top of the address space: E_RANGE (R75, R131). -/
theorem beginStore_of_pastTop (hn : bytes.length + zeros = n) (htop : 2 ^ 32 < addr.toNat + n) :
    beginStore s addr bytes zeros = .next (rejectedState s 9#4) := by
  obtain ⟨-, e⟩ | ⟨hfits, -⟩ | ⟨hfits, -⟩ := beginStore_cases s addr bytes zeros
  · exact e
  all_goals
    rw [addrSpace_eq] at hfits
    omega

end

/-- An empty sequence responds at once (R134). -/
theorem beginStore_empty (s : State) (addr : Addr) : beginStore s addr [] 0 = respond s 0#64 := by
  have hfits : ¬ addrSpace < addr.toNat := addr.isLt.not_gt
  simp [beginStore, hfits]

/-- Settles O18: each command is `beginStore` on its bytes. -/
theorem storeCommandsBegin : Obligations.StoreCommandsBegin := by
  intro s addr
  refine ⟨fun v => ?_, fun r g bl => ?_, fun n => ?_⟩
  · have hlen : (ledEnc s.par v).length + 0 = 8 := ledEnc_length ..
    exact ⟨beginStore_of_fits hlen (by decide), beginStore_of_pastTop hlen⟩
  · have hlen : (ledPixel s.par r g bl).length + 0 = 24 := ledPixel_length ..
    rw [exec_encpx, ← ledPixel_eq]
    exact ⟨beginStore_of_fits hlen (by decide), beginStore_of_pastTop hlen⟩
  · have hlen : ([] : List Byte).length + n.toNat = n.toNat := Nat.zero_add _
    refine ⟨fun htop hn => beginStore_of_fits hlen (toNat_pos_of_ne_zero hn) htop, ?_, beginStore_of_pastTop hlen⟩
    rintro rfl
    exact beginStore_empty s addr

/-! ### Memory after a run of byte writes -/

/-- The memory with `bs` written at ascending addresses from `a` on (R131). -/
def Memory.writeBytes (m : Memory) (a : Nat) : List Byte → Memory
  | [] => m
  | b :: bs => Memory.writeBytes (Memory.write m a b) (a + 1) bs

/-- A run of writes leaves every address outside it alone. -/
theorem Memory.read_writeBytes_outside {bs : List Byte} {m : Memory} {a c : Nat} (hwf : Memory.wf m)
    (htop : a + bs.length ≤ addrSpace) (hc : c < a ∨ a + bs.length ≤ c) :
    Memory.read (Memory.writeBytes m a bs) c = Memory.read m c := by
  induction bs generalizing m a with
  | nil => rfl
  | cons b bs ih =>
    rw [List.length_cons] at htop hc
    have hwrite : Memory.wf (Memory.write m a b) := Memory.write_wf hwf (by omega)
    rw [Memory.writeBytes, ih hwrite (by omega) (by omega), Memory.read_write_other hwf (by omega)]

/-- Byte `i` of a run of writes reads back at its address: later writes stand above it. -/
theorem Memory.read_writeBytes_inside {bs : List Byte} {m : Memory} {a i : Nat} (hwf : Memory.wf m)
    (htop : a + bs.length ≤ addrSpace) (hi : i < bs.length) :
    some (Memory.read (Memory.writeBytes m a bs) (a + i)) = bs[i]? := by
  induction bs generalizing m a i with
  | nil => nomatch hi
  | cons b bs ih =>
    rw [List.length_cons] at htop hi
    have hwrite : Memory.wf (Memory.write m a b) := Memory.write_wf hwf (by omega)
    rw [Memory.writeBytes]
    cases i with
    | zero =>
      rw [Memory.read_writeBytes_outside hwrite (by omega) (by omega)]
      simp [Memory.read_write_same hwf]
    | succ i =>
      rw [Nat.add_comm i 1, ← Nat.add_assoc, Nat.add_comm 1 i]
      simpa using ih hwrite (by omega) (by omega)

/-! ### The host's byte turns -/

theorem run_succ {s t : State} (h : step s = .next t) (n : Nat) : run (n + 1) s = run n t := by
  have hcore : Sys2Proof.core.step s = .next t := h
  simp only [run, Host.Core.run, hcore]
  rfl

/-- The `n` locations from `a` on exist and store what is written (R65, R66). -/
def Storing (p : Params) (a n : Nat) : Prop := ∀ i < n, mapped p (a + i) = true ∧ keeps p (a + i) = true

/-- A job with a byte left: what it takes and what remains. -/
theorem takeByte_of_jobBytes {j : StoreJob} {b : Byte} {bs : List Byte} (h : jobBytes j = b :: bs) :
    ∃ j', takeByte j = some (b, j') ∧ j'.next = j.next + 1#32 ∧ jobBytes j' = bs := by
  have hlen : jobLength j ≠ 0 := by simp [← jobBytes_length, h]
  cases htake : takeByte j with
  | none => exact absurd (takeByte_none.mp htake) hlen
  | some x =>
    obtain ⟨b', j'⟩ := x
    obtain ⟨rfl, rfl⟩ := List.cons.inj (h.symm.trans (takeByte_jobBytes htake))
    exact ⟨j', rfl, (takeByte_some htake).1, rfl⟩

/-- The host's turn on a location that stores: the byte lands, and the last one brings the response (R131). -/
theorem step_of_storing {s : State} {j j' : StoreJob} {b : Byte} {rest : List Input} (hs : s.store = some j)
    (htake : takeByte j = some (b, j')) (hsched : s.sched = .hostByte :: rest) (hloc : Storing s.par j.next.toNat 1) :
    step s =
      if jobLength j' = 0 then
        .next { s with
          mem := Memory.write s.mem j.next.toNat b, store := none, rsp := some ⟨0#4, 0#64⟩, sched := rest }
      else .next { s with mem := Memory.write s.mem j.next.toNat b, store := some j', sched := rest } := by
  have hacc : accessible s.par j.next.toNat 1 = true := accessible_spec.mpr fun i hi => (hloc i hi).1
  have hkeeps : keeps s.par j.next.toNat = true := (hloc 0 Nat.one_pos).2
  rw [step_of_hostByte hsched]
  simp [hostByteStep, hs, htake, hacc, State.writeByte, hkeeps, respond_eq]

/-- The address after a location that exists, where the one above exists too, does not wrap (R60). -/
theorem toNat_next_of_storing {p : Params} {a : Addr} {n : Nat} (h : Storing p a.toNat (n + 2)) :
    (a + 1#32).toNat = a.toNat + 1 := by
  have habove : a.toNat + 1 < addrSpace := mapped_lt (h 1 (by omega)).1
  rw [addrSpace_eq] at habove
  bv_omega

/-- As many byte turns as a store job has bytes: they land at ascending addresses, and then the command responds
(R76, R131). By induction on the bytes after the first. -/
theorem run_of_storeJob {bs : List Byte} {b : Byte} {s : State} {j : StoreJob} {rest : List Input}
    (hs : s.store = some j) (hj : jobBytes j = b :: bs)
    (hsched : s.sched = List.replicate (bs.length + 1) .hostByte ++ rest)
    (hloc : Storing s.par j.next.toNat (bs.length + 1)) :
    run (bs.length + 1) s = .next { s with
      mem := Memory.writeBytes s.mem j.next.toNat (b :: bs)
      store := none, rsp := some ⟨0#4, 0#64⟩, sched := rest } := by
  induction bs generalizing b s j with
  | nil =>
    obtain ⟨j', htake, -, hj'⟩ := takeByte_of_jobBytes hj
    have hlen : jobLength j' = 0 := by rw [← jobBytes_length, hj', List.length_nil]
    have hstep := step_of_storing hs htake hsched hloc
    rw [if_pos hlen] at hstep
    exact run_succ hstep 0
  | cons c cs ih =>
    obtain ⟨j', htake, hnext, hj'⟩ := takeByte_of_jobBytes hj
    have hlen : jobLength j' ≠ 0 := by simp [← jobBytes_length, hj']
    have haddr : j'.next.toNat = j.next.toNat + 1 := hnext ▸ toNat_next_of_storing hloc
    have hstep := step_of_storing hs htake hsched fun i hi => hloc i (by omega)
    rw [if_neg hlen] at hstep
    have hrest : Storing s.par j'.next.toNat (cs.length + 1) := fun i hi => by
      rw [haddr, Nat.add_assoc, Nat.add_comm 1 i]
      exact hloc (i + 1) (Nat.succ_lt_succ hi)
    rw [run_succ hstep, Memory.writeBytes, ← haddr]
    exact ih rfl hj' rfl hrest

/-- A command that begins a store of `bs` writes `bs` and responds, given a byte turn for each byte (R131). -/
theorem lands_of_beginStore {s : State} {i : Instr} {addr : Addr} {bytes bs : List Byte} {zeros : Nat}
    {rest : List Input} (hexec : exec i s = beginStore s addr bytes zeros)
    (hbs : bytes ++ List.replicate zeros 0#8 = bs) (hwf : Memory.wf s.mem) (hpos : 1 ≤ bs.length)
    (htop : addr.toNat + bs.length ≤ 2 ^ 32) (hloc : Storing s.par addr.toNat bs.length)
    (hsched : s.sched = List.replicate bs.length .hostByte ++ rest) :
    ∃ t u, exec i s = .next t ∧ run bs.length t = .next u
      ∧ (∀ i < bs.length, some (u.byte (addr.toNat + i)) = bs[i]?)
      ∧ (∀ a, (a < addr.toNat ∨ addr.toNat + bs.length ≤ a) → u.byte a = s.byte a)
      ∧ { u with mem := s.mem } = { s with store := none, rsp := some ⟨0#4, 0#64⟩, sched := rest } := by
  have hlen : bytes.length + zeros = bs.length := by simp [← hbs]
  obtain ⟨b, bs', rfl⟩ := List.exists_cons_of_length_pos hpos
  exact ⟨_, _, hexec.trans (beginStore_of_fits hlen hpos htop), run_of_storeJob rfl hbs hsched hloc,
    fun i hi => Memory.read_writeBytes_inside hwf htop hi,
    fun a ha => Memory.read_writeBytes_outside hwf htop ha, rfl⟩

/-- Settles O19: each command is `beginStore` on its bytes, and `run_of_storeJob` runs the byte turns. -/
theorem storeCommandsLandInMemory : Obligations.StoreCommandsLandInMemory := by
  intro s addr v r g bl n rest x hx hwf hpos htop hloc hsched
  simp only [List.mem_cons, List.not_mem_nil, or_false] at hx
  obtain rfl | rfl | rfl := hx
  · exact lands_of_beginStore (exec_encst ..) (List.append_nil _) hwf hpos htop hloc hsched
  · exact lands_of_beginStore (exec_encpx ..) (List.append_nil _) hwf hpos htop hloc hsched
  · exact lands_of_beginStore (exec_encrst ..) (List.nil_append _) hwf hpos htop hloc hsched

/-! ### The encoder and its decoder -/

theorem getElem?_ledEnc (p : Params) (v : Byte) {i : Nat} (hi : i < 8) :
    (ledEnc p v)[i]? = some (if v.getLsbD (7 - i) then p.longHigh else p.shortHigh) := by
  simp [ledEnc, hi]

/-- Settles O12, from the length and the bytes of LedEnc. -/
theorem ledEncSelectsLongHighByBit : Obligations.LedEncSelectsLongHighByBit :=
  fun p v => ⟨ledEnc_length p v, fun _ hi => getElem?_ledEnc p v hi⟩

/-- A byte of the wire's two (R121, R126). -/
def Canonical (p : Params) (b : Byte) : Prop := b = p.longHigh ∨ b = p.shortHigh

theorem canonical_of_mem_ledEnc {p : Params} {v b : Byte} (h : b ∈ ledEnc p v) : Canonical p b := by
  obtain ⟨i, -, rfl⟩ := List.mem_map.mp h
  cases v.getLsbD (7 - i)
  · exact .inr rfl
  · exact .inl rfl

theorem ledDecBit_of_canonical {p : Params} {b : Byte} (h : Canonical p b) :
    ledDecBit p b = some (decide (b = p.longHigh)) := by
  unfold ledDecBit
  split_ifs with hlong hshort
  · simp [hlong]
  · simp [hlong]
  · exact absurd h (not_or.mpr ⟨hlong, hshort⟩)

theorem ledDecBit_of_not_canonical {p : Params} {b : Byte} (h : ¬ Canonical p b) : ledDecBit p b = none := by
  obtain ⟨hlong, hshort⟩ := not_or.mp h
  simp [ledDecBit, hlong, hshort]

theorem mapM_ledDecBit_of_canonical {p : Params} {bs : List Byte} (h : ∀ b ∈ bs, Canonical p b) :
    bs.mapM (ledDecBit p) = some (bs.map fun b => decide (b = p.longHigh)) := by
  induction bs with
  | nil => rfl
  | cons b bs ih =>
    have htail := ih fun c hc => h c (List.mem_cons_of_mem _ hc)
    simp [List.mapM_cons, ledDecBit_of_canonical (h b List.mem_cons_self), htail]

theorem mapM_ledDecBit_of_not_canonical {p : Params} {bs : List Byte} {b : Byte} (hb : b ∈ bs)
    (h : ¬ Canonical p b) : bs.mapM (ledDecBit p) = none := by
  induction bs with
  | nil => nomatch hb
  | cons c cs ih =>
    rw [List.mapM_cons]
    obtain rfl | hb := List.mem_cons.mp hb
    · simp [ledDecBit_of_not_canonical h]
    · simp [ih hb]

/-- Bit `k` of the byte with the given bits is the `k`-th of them from the end (R126). -/
theorem getLsbD_byteOfBits (bits : List Bool) {k : Nat} (hk : k < 8) :
    (byteOfBits bits).getLsbD k = bits.reverse[k]?.getD false := by
  induction bits using List.reverseRecOn generalizing k with
  | nil => simp [byteOfBits]
  | append_singleton bits b ih =>
    have hsnoc : byteOfBits (bits ++ [b]) = (byteOfBits bits <<< (1 : Nat)) ||| (BitVec.ofBool b).setWidth 8 := by
      simp [byteOfBits]
    rw [hsnoc, List.reverse_concat]
    cases k with
    | zero => simp
    | succ k =>
      have hlow : k < 8 := Nat.lt_of_succ_lt hk
      simpa [hk, ← BitVec.getLsbD_eq_getElem hlow] using ih hlow

/-- On 8 canonical bytes LedDec gives the value whose bit `7 − i` says whether byte `i` is LONG_HIGH (R126). -/
theorem ledDec_of_canonical {p : Params} {bs : List Byte} (hlen : bs.length = 8) (h : ∀ b ∈ bs, Canonical p b) :
    ∃ v, ledDec p bs = some v ∧ ∀ i < 8, (v.getLsbD (7 - i) = true ↔ bs[i]? = some p.longHigh) := by
  refine ⟨byteOfBits (bs.map fun b => decide (b = p.longHigh)), ?_, fun i hi => ?_⟩
  · simp [ledDec, hlen, mapM_ledDecBit_of_canonical h]
  · have hrev : (7 - (7 - i)) = i := by omega
    have hbyte : bs[i]? = some bs[i] := List.getElem?_eq_getElem _
    rw [getLsbD_byteOfBits _ (by omega), List.getElem?_reverse (by simp [hlen]; omega)]
    simp [hlen, hrev, hbyte]

/-- LedDec undoes LedEnc where the two wire bytes differ (R121, R126). -/
theorem ledDec_ledEnc {p : Params} (hp : p.longHigh ≠ p.shortHigh) (v : Byte) : ledDec p (ledEnc p v) = some v := by
  obtain ⟨w, hdec, hbits⟩ := ledDec_of_canonical (ledEnc_length p v) fun _ => canonical_of_mem_ledEnc
  have hbit (i : Nat) (hi : i < 8) : w.getLsbD (7 - i) = v.getLsbD (7 - i) := by
    rw [Bool.eq_iff_iff, hbits i hi, getElem?_ledEnc p v hi]
    cases v.getLsbD (7 - i) <;> simp [hp.symm]
  have hwv : w = v := BitVec.eq_of_getLsbD_eq fun k hk => by
    have hk' : 7 - (7 - k) = k := by omega
    simpa [hk'] using hbit (7 - k) (by omega)
  rw [hdec, hwv]

/-- Settles O13: `ledDec_ledEnc` for the values and for the three groups of a pixel. -/
theorem ledDecInvertsTheEncoder : Obligations.LedDecInvertsTheEncoder := by
  intro p hp
  refine ⟨fun bs hlen => ⟨ledDec_of_canonical hlen, fun ⟨b, hb, hne⟩ => ?_⟩, ledDec_ledEnc hp, fun r g bl => ?_⟩
  · simp [ledDec, mapM_ledDecBit_of_not_canonical hb (not_or.mpr hne)]
  · have hgreen : (ledPixel p r g bl).take 8 = ledEnc p g := by simp [ledPixel_eq]
    have hred : ((ledPixel p r g bl).drop 8).take 8 = ledEnc p r := by simp [ledPixel_eq]
    have hblue : (ledPixel p r g bl).drop 16 = ledEnc p bl := by simp [ledPixel_eq, List.drop_append]
    rw [hgreen, hred, hblue]
    exact ⟨ledDec_ledEnc hp g, ledDec_ledEnc hp r, ledDec_ledEnc hp bl⟩

/-! ### Frames -/

/-- Every pixel takes 24 bytes (R123, R125). -/
theorem drop_ledFrame_cons (p : Params) (c : Byte × Byte × Byte) (cs : List (Byte × Byte × Byte)) (z n : Nat) :
    (ledFrame p (c :: cs) z).drop (24 * (n + 1)) = (ledFrame p cs z).drop (24 * n) := by
  rw [Nat.mul_succ, Nat.add_comm, ledFrame_cons, ← List.drop_drop, List.drop_left' (ledPixel_length ..)]

/-- What follows the pixels of a frame is the reset pulse (R125). -/
theorem drop_ledFrame (p : Params) (cs : List (Byte × Byte × Byte)) (z : Nat) :
    (ledFrame p cs z).drop (24 * cs.length) = resetPulse z := by
  induction cs with
  | nil => rfl
  | cons c cs ih => rw [List.length_cons, drop_ledFrame_cons, ih]

theorem ledFrame_length (p : Params) (cs : List (Byte × Byte × Byte)) (z : Nat) :
    (ledFrame p cs z).length = 24 * cs.length + z := by
  induction cs with
  | nil => simp [ledFrame]
  | cons c cs ih =>
    rw [ledFrame_cons, List.length_append, ledPixel_length, ih, List.length_cons]
    omega

/-- The bytes of pixel `i` stand at `24 * i`. -/
theorem take_drop_ledFrame {p : Params} {cs : List (Byte × Byte × Byte)} {z i : Nat} {c : Byte × Byte × Byte}
    (h : cs[i]? = some c) : ((ledFrame p cs z).drop (24 * i)).take 24 = ledPixel p c.1 c.2.1 c.2.2 := by
  induction cs generalizing i with
  | nil => simp at h
  | cons d ds ih =>
    cases i with
    | zero =>
      obtain rfl : d = c := by simpa using h
      rw [ledFrame_cons]
      exact List.take_left' (ledPixel_length ..)
    | succ i =>
      rw [drop_ledFrame_cons]
      exact ih (by simpa using h)

/-- Settles O14: each clause is an induction over the pixels. -/
theorem ledFrameHasItsLengthAndTail : Obligations.LedFrameHasItsLengthAndTail := fun p cs z =>
  ⟨ledFrame_length p cs z, drop_ledFrame p cs z, fun _ _ h => (take_drop_ledFrame h).trans (ledPixel_eq ..)⟩

/-! ### The commands that answer at once -/

theorem extract_lane_zero (acc : BitVec 64) (b : Byte) :
    ((acc <<< (8 : Nat)) ||| b.setWidth 64).extractLsb' 0 8 = b := by
  refine BitVec.eq_of_getLsbD_eq fun k hk => ?_
  have hk' : k < 64 := by omega
  simp [hk, hk']

theorem extract_lane_succ (acc : BitVec 64) (b : Byte) {i : Nat} (hi : i + 1 < 8) :
    ((acc <<< (8 : Nat)) ||| b.setWidth 64).extractLsb' (8 * (i + 1)) 8 = acc.extractLsb' (8 * i) 8 := by
  refine BitVec.eq_of_getLsbD_eq fun k hk => ?_
  have hnext : 8 * (i + 1) + k = 8 * i + k + 8 := by omega
  have hlane : 8 * i + k + 8 < 64 := by omega
  simp only [BitVec.getLsbD_extractLsb', BitVec.getLsbD_or, BitVec.getLsbD_shiftLeft, BitVec.getLsbD_setWidth]
  simp [hk, hnext, hlane]

/-- Byte `i` stands in byte lane `i` (R61, R130). -/
theorem extract_byteLanes {bytes : List Byte} {i : Nat} {b : Byte} (hi : i < 8) (h : bytes[i]? = some b) :
    (byteLanes bytes).extractLsb' (8 * i) 8 = b := by
  induction bytes generalizing i with
  | nil => simp at h
  | cons c cs ih =>
    have hcons : byteLanes (c :: cs) = (byteLanes cs <<< (8 : Nat)) ||| c.setWidth 64 := rfl
    rw [hcons]
    cases i with
    | zero =>
      obtain rfl : c = b := by simpa using h
      exact extract_lane_zero ..
    | succ i =>
      rw [extract_lane_succ _ _ hi]
      exact ih (Nat.lt_of_succ_lt hi) (by simpa using h)

/-- Settles O15: lane `i` of the answer is byte `i` of LedEnc. -/
theorem encqAnswersTheWireBytes : Obligations.EncqAnswersTheWireBytes := fun s v =>
  ⟨_, exec_encq v s, fun _ hi => extract_byteLanes hi (getElem?_ledEnc s.par v hi)⟩

/-- Settles O16: the codes of G, R, B folded into two-bit fields evaluate to 0x21. -/
theorem orderAnswersGreenRedBlue : Obligations.OrderAnswersGreenRedBlue := fun _ => rfl

/-- An operand of 0 divides by zero: E_DIV (R136). -/
theorem execPeriod_of_zero {clock freq count : BitVec 32} {s : State} (h : freq = 0#32 ∨ count = 0#32) :
    execPeriod clock freq count s = reject s .eDiv := by
  obtain rfl | rfl := h <;> simp [execPeriod]

theorem execPeriod_of_ne {clock freq count : BitVec 32} {s : State} (hf : freq ≠ 0#32) (hc : count ≠ 0#32) :
    execPeriod clock freq count s =
      respond s (BitVec.ofNat 64 (timerPeriod clock.toNat freq.toNat count.toNat)) :=
  if_neg (Nat.mul_ne_zero (by bv_omega) (by bv_omega))

/-- The quotient is no larger than the clock, so the 64 bits of the answer hold it (R128). -/
theorem timerPeriod_lt (clock freq count : BitVec 32) : timerPeriod clock.toNat freq.toNat count.toNat < 2 ^ 64 :=
  (Nat.div_le_self ..).trans_lt (by omega)

/-- Settles O17, by whether an operand is 0. -/
theorem periodAnswersTheTruncatedQuotient : Obligations.PeriodAnswersTheTruncatedQuotient := by
  intro s clock freq count
  refine ⟨fun hf hc => ⟨_, execPeriod_of_ne hf hc, ?_⟩, execPeriod_of_zero⟩
  rw [BitVec.toNat_ofNat, Nat.mod_eq_of_lt (timerPeriod_lt clock freq count), timerPeriod]

end Sys2Proof.Machine

/-! The family of spec/41_dma_commands.md: a channel that does not exist (O20); the two commands with checks, CFG
(O21, O22) and ARM (O23, O24); and the commands that are always accepted or have one check: EN, DIS, the three queries
and CLRTC (O25 to O28). -/

namespace Sys2Proof.Machine

/-! ### What all eight share -/

/-- What an accepted command that writes one channel does, whatever it writes: the response, that channel, and the
frame of R150. -/
theorem accepted_setChan {s : State} {ch : ChIx} (hch : ch.toNat < s.nCh) (c : Channel) :
    Accepted ((s.setChan ch c).answer .ok 0#64) 0#64 ∧ ((s.setChan ch c).answer .ok 0#64).chan ch = c
      ∧ DmaFrame ch s ((s.setChan ch c).answer .ok 0#64) :=
  have hothers : KeepsOtherChannels ch s ((s.setChan ch c).answer .ok 0#64) := fun _ => State.chan_setChan_ne s c
  have hplatform : KeepsPlatform s ((s.setChan ch c).answer .ok 0#64) :=
    ⟨rfl, State.setChan_nCh s ch c, rfl, rfl, rfl⟩
  ⟨rfl, State.chan_setChan_self s ch c hch, hothers, ⟨rfl, rfl, rfl, rfl, rfl⟩, rfl, rfl, fun _ => rfl, hplatform⟩

/-- Settles O20: each of the eight is the prologue `withChannel` around its own body. -/
theorem dmaCommandsRejectAMissingChannel : Obligations.DmaCommandsRejectAMissingChannel := by
  intro s ch hch f src dst count
  have missing (body : Channel → Result) : withChannel s ch body = .next (rejectedState s 2#4) :=
    withChannel_of_not_lt hch body
  simp only [List.forall_mem_cons, exec]
  exact ⟨missing _, missing _, missing _, missing _, missing _, missing _, missing _, missing _, nofun⟩

section
variable {s : State} {ch : ChIx}

/-! ### CFG -/

/-- The field values that CFG accepts, as R21 lists them. -/
theorem cfgLegal_iff {f : CfgFields} : cfgLegal f = true ↔
    (f.width = 0#2 ∨ f.width = 1#2) ∧ f.dir = false ∧ f.incSrc = true ∧ f.incDst = false := by
  have hwidth : f.width.toNat < 2 ↔ f.width = 0#2 ∨ f.width = 1#2 := by bv_omega
  simp [cfgLegal, hwidth, and_assoc]

theorem cfgLegal_eq_false_iff {f : CfgFields} : cfgLegal f = false ↔
    f.width = 2#2 ∨ f.width = 3#2 ∨ f.dir = true ∨ f.incSrc = false ∨ f.incDst = true := by
  have hwidth : 1 < f.width.toNat ↔ f.width = 2#2 ∨ f.width = 3#2 := by bv_omega
  simp [cfgLegal, hwidth, or_assoc, imp_iff_not_or]

theorem exec_cfg_of_lt (hch : ch.toNat < s.nCh) (f : CfgFields) : exec (.cfg ch f) s =
    if (s.chan ch).en then reject s .eBusy
    else if cfgLegal f = false then reject s .eField
    else respond (s.setChan ch (configure (s.chan ch) f)) 0#64 := by
  simp [exec, execCfg, hch]

/-! ### ARM -/

theorem countLegal_eq_false_iff {count : BitVec 32} :
    countLegal count = false ↔ count = 0#32 ∨ 65535 < count.toNat := by
  have hzero : count.toNat = 0 ↔ count = 0#32 := by bv_omega
  simp [countLegal, ← hzero, imp_iff_not_or]

theorem addrsAligned_eq_false_iff {w : Nat} {src dst : Addr} :
    addrsAligned w src dst = false ↔ src.toNat % w ≠ 0 ∨ dst.toNat % w ≠ 0 := by
  simp [addrsAligned, imp_iff_not_or]

/-- The checks of ARM in the order of their status codes (R152, R242). -/
theorem exec_arm_of_lt (hch : ch.toNat < s.nCh) (src dst : Addr) (count : BitVec 32) : exec (.arm ch src dst count) s =
    if (s.chan ch).en then reject s .eBusy
    else if (s.chan ch).cv = false then reject s .eNoCfg
    else if count = 0#32 ∨ 65535 < count.toNat then reject s .eCount
    else if src.toNat % elemSize (s.chan ch).cfg ≠ 0 ∨ dst.toNat % elemSize (s.chan ch).cfg ≠ 0 then reject s .eAlign
    else if 2 ^ 32 < src.toNat + count.toNat * elemSize (s.chan ch).cfg then reject s .eRange
    else respond (s.setChan ch (loadDescriptor (s.chan ch) src dst count)) 0#64 := by
  simp only [← countLegal_eq_false_iff, ← addrsAligned_eq_false_iff]
  simp [exec, execArm, hch]

/-! ### The commands without a check of their own, and CLRTC -/

theorem exec_en_of_lt (hch : ch.toNat < s.nCh) :
    exec (.en ch) s = respond (s.setChan ch { s.chan ch with en := true }) 0#64 := by
  simp [exec, execEn, hch]

theorem exec_dis_of_lt (hch : ch.toNat < s.nCh) :
    exec (.dis ch) s = respond ((s.setChan ch { s.chan ch with en := false }).forceIdle ch) 0#64 := by
  simp [exec, execDis, hch]

theorem exec_runq_of_lt (hch : ch.toNat < s.nCh) :
    exec (.runq ch) s = respond s (bitAnswer (running (s.chan ch))) := by
  simp [exec, execRunq, hch]

theorem exec_cntq_of_lt (hch : ch.toNat < s.nCh) : exec (.cntq ch) s = respond s ((s.chan ch).cnt.setWidth 64) := by
  simp [exec, execCntq, hch]

theorem exec_tcq_of_lt (hch : ch.toNat < s.nCh) : exec (.tcq ch) s = respond s (bitAnswer (s.chan ch).tcf) := by
  simp [exec, execTcq, hch]

theorem exec_clrtc_of_lt (hch : ch.toNat < s.nCh) : exec (.clrtc ch) s =
    if ch = s.par.chK ∧ s.st ≠ .idle then reject s .eBusy
    else respond (s.setChan ch (clearTcf (s.chan ch))) 0#64 := by
  simp [exec, execClrtc, State.isK, hch]

end

/-- Settles O24: each cause falls through the checks before it. -/
theorem armRejections : Obligations.ArmRejections := by
  intro s ch src dst count hch c badCount badAlign badRange
  rw [exec_arm_of_lt hch]
  refine ⟨fun hen => ?busy, fun hen hcv => ?noCfg, fun hen hcv hcount => ?badCount,
    fun hen hcv hcount halign => ?badAlign, fun hen hcv hcount halign hrange => ?badRange⟩
  case busy => rw [if_pos hen]; rfl
  all_goals rw [if_neg (ne_true_of_eq_false hen)]
  case noCfg => rw [if_pos hcv]; rfl
  all_goals rw [if_neg (ne_false_of_eq_true hcv)]
  case badCount => rw [if_pos hcount]; rfl
  all_goals rw [if_neg hcount]
  case badAlign => rw [if_pos halign]; rfl
  case badRange => rw [if_neg halign, if_pos hrange]; rfl

/-- Settles O21: of the two shapes `configure` has, the width tells which. -/
theorem cfgWritesTheFields : Obligations.CfgWritesTheFields := by
  intro s ch f hch hen hwidth hdir hsrc hdst
  have hlegal : cfgLegal f = true := cfgLegal_iff.mpr ⟨hwidth, hdir, hsrc, hdst⟩
  have hexec : exec (.cfg ch f) s = respond (s.setChan ch (configure (s.chan ch) f)) 0#64 := by
    simp [exec_cfg_of_lt hch, hen, hlegal]
  obtain ⟨haccepted, hchan, hframe⟩ := accepted_setChan hch (configure (s.chan ch) f)
  obtain ⟨hav, hne, e⟩ | ⟨hsame, e⟩ := configure_cases (s.chan ch) f
  · exact ⟨_, hexec, haccepted, fun _ => hchan.trans e, fun hkeeps => absurd ⟨hav, hne⟩ hkeeps, hframe⟩
  · exact ⟨_, hexec, haccepted, fun hdisarms => absurd hdisarms hsame, fun _ => hchan.trans e, hframe⟩

/-- Settles O22: the busy check stands before the field check. -/
theorem cfgRejections : Obligations.CfgRejections := by
  intro s ch f hch
  rw [exec_cfg_of_lt hch]
  refine ⟨fun hen => ?_, fun hen hfield => ?_⟩
  · rw [if_pos hen]; rfl
  · rw [if_neg (ne_true_of_eq_false hen), if_pos (cfgLegal_eq_false_iff.mpr hfield)]; rfl

/-- Settles O23: the premises are the negations of ARM's causes, and the 16 bits of CNT hold a legal count. -/
theorem armLoadsTheDescriptor : Obligations.ArmLoadsTheDescriptor := by
  intro s ch src dst count hch hen hcv hpos hmax hsrc hdst htop
  have hcount : ¬ (count = 0#32 ∨ 65535 < count.toNat) := by bv_omega
  have hexec : exec (.arm ch src dst count) s =
      respond (s.setChan ch (loadDescriptor (s.chan ch) src dst count)) 0#64 := by
    rw [exec_arm_of_lt hch, if_neg (ne_true_of_eq_false hen), if_neg (ne_false_of_eq_true hcv), if_neg hcount,
      if_neg (by simp [hsrc, hdst]), if_neg htop.not_gt]
  have hword : (count.setWidth 16).toNat = count.toNat := by
    rw [BitVec.toNat_setWidth, Nat.mod_eq_of_lt (by omega)]
  obtain ⟨haccepted, hchan, hframe⟩ := accepted_setChan hch (loadDescriptor (s.chan ch) src dst count)
  exact ⟨_, _, hexec, haccepted, hword, hchan, hframe⟩

/-- Settles O25: EN has no check but the prologue's. -/
theorem enSetsTheGateAlone : Obligations.EnSetsTheGateAlone := fun _ _ hch =>
  ⟨_, exec_en_of_lt hch, accepted_setChan hch _⟩

/-- Settles O26: the cleared gate is the one channel written; `forceIdle` then touches ST alone, and only on CH_K. -/
theorem disClearsTheGateAndFreesTheFsm : Obligations.DisClearsTheGateAndFreesTheFsm := by
  intro s ch hch
  obtain ⟨-, hchan, hothers, ⟨hst, hrem, hchunk, hdone, herr⟩, hpulses, hstore, hmem, hplatform⟩ :=
    accepted_setChan hch { s.chan ch with en := false }
  refine ⟨_, exec_dis_of_lt hch, ?_⟩
  by_cases hk : ch = s.par.chK
  · rw [State.forceIdle_of_eq (s := s.setChan ch _) hk]
    exact ⟨rfl, hchan, fun _ => rfl, fun hne => absurd hk hne, hrem, hchunk, hdone, herr, hothers, hpulses, hstore,
      hmem, hplatform⟩
  · rw [State.forceIdle_of_ne (s := s.setChan ch _) hk]
    exact ⟨rfl, hchan, fun e => absurd e hk, fun _ => hst, hrem, hchunk, hdone, herr, hothers, hpulses, hstore,
      hmem, hplatform⟩

theorem bitAnswer_eq (b : Bool) : bitAnswer b = if b then 1#64 else 0#64 := by cases b <;> rfl

/-- Settles O27: the queries respond with a function of the channel's registers. -/
theorem channelQueriesAnswer : Obligations.ChannelQueriesAnswer := by
  intro s ch hch
  refine ⟨fun hen hcnt => ?_, fun hstopped => ?_, ⟨_, exec_cntq_of_lt hch, ?_⟩, ?_⟩
  · rw [exec_runq_of_lt hch, running_iff.mpr ⟨hen, hcnt⟩]; rfl
  · have hnot : running (s.chan ch) = false := by
      rw [Bool.eq_false_iff, ne_eq, running_iff]
      rintro ⟨hen, hcnt⟩
      exact hstopped.elim (ne_false_of_eq_true hen) hcnt
    rw [exec_runq_of_lt hch, hnot]; rfl
  · exact BitVec.toNat_setWidth_of_le (by decide)
  · rw [exec_tcq_of_lt hch, bitAnswer_eq]; rfl

/-- Settles O28: on CH_K the flag belongs to the FSM until it is Idle (R158). -/
theorem clrtcClearsTheFlag : Obligations.ClrtcClearsTheFlag := by
  intro s ch hch
  rw [exec_clrtc_of_lt hch]
  refine ⟨fun hfree => ?_, fun hk hst => ?_⟩
  · rw [if_neg fun ⟨hk, hst⟩ => hfree.elim (· hk) hst]
    exact ⟨_, rfl, accepted_setChan hch _⟩
  · rw [if_pos ⟨hk, hst⟩]; rfl

end Sys2Proof.Machine

/-! The family of spec/42_dma_transfer.md: what one request does to its channel (O29 to O31, O33) and to memory (O32),
two requests on two channels (O37), and a run of requests on one channel (O35, O36). -/

namespace Sys2Proof.Machine

/-! ### When a request is served -/

theorem moveEnabled_iff {p : Params} {c : Channel} : moveEnabled p c = true ↔
    (∀ j < elemSize c.cfg, mapped p (c.cur.toNat + j) = true)
      ∧ ∀ j < elemSize c.cfg, mapped p (c.dst.toNat + j) = true := by
  simp only [moveEnabled, Bool.and_eq_true, accessible_spec]

/-- The conditions of R180 are the checks that REQ makes. -/
theorem serves_iff {s : State} {ch : ChIx} : Serves s ch ↔
    ch.toNat < s.nCh ∧ running (s.chan ch) = true ∧ moveEnabled s.par (s.chan ch) = true := by
  rw [running_iff, moveEnabled_iff, and_assoc]

theorem exec_req_of_serves {s : State} {ch : ChIx} (h : Serves s ch) : exec (.req ch) s = .next (serve s ch) := by
  obtain ⟨hch, hrun, hmap⟩ := serves_iff.mp h
  simp [exec, execReq, hch, hrun, hmap]

/-- A request on a channel that is not running is dropped (R184). -/
theorem exec_req_of_not_running {s : State} {ch : ChIx} (hch : ch.toNat < s.nCh) (h : running (s.chan ch) = false) :
    exec (.req ch) s = .next s := by
  simp [exec, execReq, hch, h]

theorem running_eq_false_iff {c : Channel} : running c = false ↔ c.en = false ∨ c.cnt = 0#16 := by
  simp [running, imp_iff_not_or]

/-- Settles O33: not running is one of the two causes. -/
theorem unservedRequestsAreDropped : Obligations.UnservedRequestsAreDropped := fun _ _ hch hstopped =>
  exec_req_of_not_running hch (running_eq_false_iff.mpr hstopped)

/-! ### The element moved -/

/-- A read of one or two bytes has the byte of each address in its own lane (R61). -/
theorem extract_memRead {s : State} {a n j : Nat} (hn : n = 1 ∨ n = 2) (hj : j < n) :
    (memRead s a n).extractLsb' (8 * j) 8 = s.byte (a + j) := by
  obtain rfl | rfl : j = 0 ∨ j = 1 := by omega
  · exact BitVec.extractLsb'_append_eq_right
  · obtain rfl : n = 2 := by omega
    exact BitVec.extractLsb'_append_eq_left

/-- A read depends on the bytes it covers alone. -/
theorem memRead_congr {s t : State} {a n : Nat} (hn : n = 1 ∨ n = 2) (h : ∀ j < n, t.byte (a + j) = s.byte (a + j)) :
    memRead t a n = memRead s a n := by
  have hlow : t.byte a = s.byte a := h 0 (by omega)
  obtain rfl | rfl := hn
  · rw [memRead_one, memRead_one, hlow]
  · rw [memRead_two, memRead_two, hlow, h 1 (by omega)]

/-- The value moved is the little-endian number at the cursor (R61, R181). -/
theorem toNat_movedRecord_value (s : State) (ch : ChIx) : (movedRecord s ch).value.toNat = elementAt s ch := by
  by_cases hw : (s.chan ch).cfg.width = 0#2
  · have hsize : elemSize (s.chan ch).cfg = 1 := if_pos hw
    rw [movedRecord, hsize, memRead_one, elementAt, if_pos hw, Nat.add_zero]
    exact BitVec.toNat_setWidth_of_le (by decide)
  · have hsize : elemSize (s.chan ch).cfg = 2 := if_neg hw
    rw [movedRecord, hsize, memRead_two, elementAt, if_neg hw, BitVec.toNat_append,
      ← Nat.shiftLeft_add_eq_or_of_lt (BitVec.isLt _), Nat.shiftLeft_eq]
    omega

/-! ### The channel after a request -/

/-- The channel served, after the request (R181). -/
theorem serve_chan_self {s : State} {ch : ChIx} (hch : ch.toNat < s.nCh) :
    (serve s ch).chan ch = advance (s.chan ch) (movedRecord s ch) := by
  rw [serve_chan, if_pos ⟨rfl, hch⟩, movedRecord]

/-- Every other channel, after the request (R186). -/
theorem serve_chan_other (s : State) {ch j : ChIx} (h : j ≠ ch) : (serve s ch).chan j = s.chan j := by
  rw [serve_chan, if_neg fun hj => h hj.1]

theorem reqFrame_serve {s : State} {ch : ChIx} (hch : ch.toNat < s.nCh) : ReqFrame ch s (serve s ch) := by
  have hdesc : KeepsDescriptor (s.chan ch) ((serve s ch).chan ch) := by
    rw [serve_chan_self hch]
    exact advance_keepsDescriptor ..
  have hothers : KeepsOtherChannels ch s (serve s ch) := fun _ => serve_chan_other s
  obtain ⟨hpar, hnCh⟩ := sameInstance_serve s ch
  refine ⟨hdesc, hothers, ?_⟩
  rw [serve_eq] at hpar hnCh ⊢
  exact ⟨⟨rfl, rfl, rfl, rfl, rfl⟩, rfl, rfl, ⟨hpar, hnCh, rfl, rfl, rfl⟩, rfl⟩

section
variable {c : Channel} (r : OutRec)

theorem advance_of_cnt_ne_one (h : c.cnt ≠ 1#16) : advance c r =
    { c with out := c.out ++ [r], cur := c.cur + BitVec.ofNat 32 (elemSize c.cfg), cnt := c.cnt - 1#16 } := by
  obtain ⟨-, e⟩ | ⟨hone, -⟩ | ⟨hone, -⟩ := advance_cases c r
  · exact e
  · exact absurd hone h
  · exact absurd hone h

/-- One-shot completion (R182). -/
theorem advance_of_oneShot (h : c.cnt = 1#16) (hcirc : c.cfg.circ = false) : advance c r =
    { c with
      out := c.out ++ [r], cur := c.cur + BitVec.ofNat 32 (elemSize c.cfg), cnt := 0#16, tcf := true } := by
  obtain ⟨hne, -⟩ | ⟨-, -, e⟩ | ⟨-, hwrap, -⟩ := advance_cases c r
  · exact absurd h hne
  · exact e
  · exact absurd hwrap (ne_true_of_eq_false hcirc)

/-- Circular wrap (R183). -/
theorem advance_of_circular (h : c.cnt = 1#16) (hcirc : c.cfg.circ = true) : advance c r =
    { c with out := c.out ++ [r], cur := c.src, cnt := c.cntReload } := by
  obtain ⟨hne, -⟩ | ⟨-, honce, -⟩ | ⟨-, -, e⟩ := advance_cases c r
  · exact absurd h hne
  · exact absurd hcirc (ne_true_of_eq_false honce)
  · exact e

theorem advance_out : (advance c r).out = c.out ++ [r] := by
  obtain ⟨-, e⟩ | ⟨-, -, e⟩ | ⟨-, -, e⟩ := advance_cases c r <;> rw [e]

end

/-- The cursor advances modulo 2^32 (R181). -/
theorem toNat_cursor_add (cur : Addr) (n : Nat) : (cur + BitVec.ofNat 32 n).toNat = (cur.toNat + n) % 2 ^ 32 := by
  rw [BitVec.toNat_add, BitVec.toNat_ofNat, Nat.add_mod_mod]

/-- A count that is not at its last element falls by 1 and stays above 0. -/
theorem toNat_cnt_sub_one {cnt : BitVec 16} (hpos : 1 ≤ cnt.toNat) (hne : cnt ≠ 1#16) :
    (cnt - 1#16).toNat + 1 = cnt.toNat ∧ 2 ≤ cnt.toNat := by
  bv_omega

/-- Settles O29, the case of `advance` in which the channel runs on. -/
theorem reqMovesOneElement : Obligations.ReqMovesOneElement := by
  intro s ch hserves hne
  obtain ⟨hch, -, hcnt, -⟩ := id hserves
  have hfall := toNat_cnt_sub_one (toNat_pos_of_ne_zero hcnt) hne
  refine ⟨_, _, exec_req_of_serves hserves, toNat_movedRecord_value s ch, ?_⟩
  rw [serve_chan_self hch, advance_of_cnt_ne_one _ hne]
  exact ⟨rfl, toNat_cursor_add .., hfall.1, rfl, reqFrame_serve hch⟩

/-- Settles O30: with CNT = 0 the channel is no longer running, so the further request is dropped. -/
theorem lastRequestCompletesAOneShot : Obligations.LastRequestCompletesAOneShot := by
  intro s ch hserves hone hcirc
  obtain ⟨hch, -⟩ := id hserves
  have hafter := (serve_chan_self hch).trans (advance_of_oneShot (movedRecord s ch) hone hcirc)
  have hdropped : exec (.req ch) (serve s ch) = .next (serve s ch) := by
    refine exec_req_of_not_running ((sameInstance_serve s ch).2 ▸ hch) (running_eq_false_iff.mpr (.inr ?_))
    rw [hafter]
  refine ⟨_, _, exec_req_of_serves hserves, toNat_movedRecord_value s ch, ?_⟩
  rw [irqTc, hafter]
  exact ⟨rfl, toNat_cursor_add .., rfl, rfl, rfl, reqFrame_serve hch, hdropped⟩

/-- Settles O31, the case of `advance` in which a circular channel wraps. -/
theorem lastRequestWrapsACircular : Obligations.LastRequestWrapsACircular := by
  intro s ch hserves hone hcirc
  obtain ⟨hch, -⟩ := id hserves
  refine ⟨_, _, exec_req_of_serves hserves, toNat_movedRecord_value s ch, ?_⟩
  rw [serve_chan_self hch, advance_of_circular _ hone hcirc]
  exact ⟨rfl, rfl, rfl, rfl, reqFrame_serve hch⟩

/-! ### Memory after a request -/

/-- A byte written to a location that consumes it changes nothing (R65). -/
theorem State.writeByte_of_not_keeps {s : State} {a : Nat} (h : keeps s.par a = false) (v : Byte) :
    s.writeByte a v = s := by
  simp [State.writeByte, h]

/-- One byte write, as the location it addresses reads afterwards (R65). -/
theorem State.byte_writeByte {s : State} {a : Nat} (h : Memory.wf s.mem) (v : Byte) :
    (s.writeByte a v).byte a = if keeps s.par a = true then v else s.byte a := by
  split
  next hk => exact State.byte_writeByte_same h hk
  next hk => rw [State.writeByte_of_not_keeps (by simpa using hk)]

/-- Each byte of a `MemWrite` where the location stores, and the byte that was there where it does not (R61, R65). -/
theorem memWrite_byte {s : State} {a n j : Nat} {v : BitVec 16} (hwf : Memory.wf s.mem) (ha : a < addrSpace)
    (hn : n = 1 ∨ n = 2) (hj : j < n) :
    (memWrite s a n v).byte (a + j) =
      if keeps s.par (a + j) = true then v.extractLsb' (8 * j) 8 else s.byte (a + j) := by
  have hlow : Memory.wf (s.writeByte a (v.extractLsb' 0 8)).mem := State.writeByte_wf hwf ha
  obtain rfl | rfl := hn
  · obtain rfl : j = 0 := by omega
    exact State.byte_writeByte hwf _
  obtain rfl | rfl : j = 0 ∨ j = 1 := by omega
  · exact (State.byte_writeByte_other hlow (by omega)).trans (State.byte_writeByte hwf _)
  · refine (State.byte_writeByte hlow _).trans ?_
    rw [State.writeByte_par, State.byte_writeByte_other hwf (by omega)]

/-- Each byte of the element at its destination, where the location stores (R65, R181). -/
theorem serve_byte_inside {s : State} {ch : ChIx} {j : Nat} (hwf : Memory.wf s.mem)
    (hmap : moveEnabled s.par (s.chan ch) = true) (hj : j < elemSize (s.chan ch).cfg) :
    (serve s ch).byte ((s.chan ch).dst.toNat + j) =
      if keeps s.par ((s.chan ch).dst.toNat + j) = true then s.byte ((s.chan ch).cur.toNat + j)
      else s.byte ((s.chan ch).dst.toNat + j) := by
  have hsize := elemSize_cases (s.chan ch).cfg
  rw [← extract_memRead (a := (s.chan ch).cur.toNat) hsize hj]
  exact (State.byte_of_mem rfl _).trans (memWrite_byte hwf (dst_lt_of_moveEnabled hmap) hsize hj)

/-- Settles O32: `serve_byte_inside` and `serve_byte_outside`. -/
theorem reqWritesItsDestinationOnly : Obligations.ReqWritesItsDestinationOnly := by
  intro s ch hwf hserves
  obtain ⟨-, -, hmap⟩ := serves_iff.mp hserves
  refine ⟨_, exec_req_of_serves hserves, fun j hj hk => ?_, fun j hj hk => ?_,
    fun a ha => serve_byte_outside hwf hmap ha⟩
  · rw [serve_byte_inside hwf hmap hj, if_pos hk]
  · rw [serve_byte_inside hwf hmap hj, if_neg (ne_true_of_eq_false hk)]

/-! ### Requests on two channels -/

/-- Address `x` is one of the bytes of channel `ch`'s destination element (R65). -/
def InDestination (s : State) (ch : ChIx) (x : Nat) : Prop :=
  ∃ j < elemSize (s.chan ch).cfg, x = (s.chan ch).dst.toNat + j

theorem serve_byte_of_not_inDestination {s : State} {ch : ChIx} {x : Nat} (hwf : Memory.wf s.mem)
    (hserves : Serves s ch) (hx : ¬ InDestination s ch x) : (serve s ch).byte x = s.byte x := by
  obtain ⟨-, -, hmap⟩ := serves_iff.mp hserves
  refine serve_byte_outside hwf hmap ?_
  by_contra hin
  exact hx ⟨x - (s.chan ch).dst.toNat, by omega, by omega⟩

/-- The destination element of `a` meets neither the source nor the destination element of `b`. -/
def Spares (s : State) (a b : ChIx) : Prop :=
  ∀ j < elemSize (s.chan b).cfg,
    ¬ InDestination s a ((s.chan b).cur.toNat + j) ∧ ¬ InDestination s a ((s.chan b).dst.toNat + j)

/-- A served request keeps memory canonical (R60). -/
theorem serve_wf {s : State} {ch : ChIx} (hwf : Memory.wf s.mem) (hserves : Serves s ch) :
    Memory.wf (serve s ch).mem := by
  obtain ⟨-, -, -, -, hdst⟩ := hserves
  exact memWrite_wf_of_accessible hwf (elemSize_cases _) (accessible_spec.mpr hdst)

section
variable {s : State} {a b : ChIx}

/-- A request on `a` leaves `b` to be served (R186). -/
theorem serves_serve_other (hab : a ≠ b) (hb : Serves s b) : Serves (serve s a) b := by
  obtain ⟨hpar, hnCh⟩ := sameInstance_serve s a
  rw [serves_iff, hpar, hnCh, serve_chan_other s hab.symm]
  exact serves_iff.mp hb

/-- A request on `a` that spares `b` leaves the element that `b` will move (R69, R186). -/
theorem movedRecord_serve_other (hab : a ≠ b) (hwf : Memory.wf s.mem) (ha : Serves s a) (hspares : Spares s a b) :
    movedRecord (serve s a) b = movedRecord s b := by
  have hbyte (j : Nat) (hj : j < elemSize (s.chan b).cfg) :
      (serve s a).byte ((s.chan b).cur.toNat + j) = s.byte ((s.chan b).cur.toNat + j) :=
    serve_byte_of_not_inDestination hwf ha (hspares j hj).1
  rw [movedRecord, movedRecord, serve_chan_other s hab.symm, memRead_congr (elemSize_cases _) hbyte]

/-- The channels after both requests, each served as if it were alone (R186). -/
theorem serve_serve_chan (hab : a ≠ b) (hwf : Memory.wf s.mem) (ha : Serves s a) (hb : Serves s b)
    (hspares : Spares s a b) (ch : ChIx) :
    (serve (serve s a) b).chan ch = if ch = b then (serve s b).chan b else (serve s a).chan ch := by
  obtain ⟨hch, -⟩ := id hb
  split
  next hcb =>
    have hch' : b.toNat < (serve s a).nCh := (sameInstance_serve s a).2 ▸ hch
    rw [hcb, serve_chan_self hch, serve_chan_self hch', serve_chan_other s hab.symm,
      movedRecord_serve_other hab hwf ha hspares]
  next hcb => exact serve_chan_other _ hcb

/-- Memory after both requests, each served as if it were alone (R69, R250). -/
theorem serve_serve_byte (hab : a ≠ b) (hwf : Memory.wf s.mem) (ha : Serves s a) (hb : Serves s b)
    (hspares : Spares s a b) (x : Nat) :
    (InDestination s b x → (serve (serve s a) b).byte x = (serve s b).byte x)
      ∧ (¬ InDestination s b x → (serve (serve s a) b).byte x = (serve s a).byte x) := by
  have hwfa := serve_wf hwf ha
  have hba := serves_serve_other hab hb
  have hchan := serve_chan_other s hab.symm
  constructor
  · rintro ⟨j, hj, rfl⟩
    obtain ⟨hcur, hdst⟩ := hspares j hj
    obtain ⟨-, -, hmap⟩ := serves_iff.mp hb
    obtain ⟨-, -, hmap'⟩ := serves_iff.mp hba
    have hinside := serve_byte_inside hwfa hmap' (hchan.symm ▸ hj)
    rw [hchan, (sameInstance_serve s a).1, serve_byte_of_not_inDestination hwf ha hcur,
      serve_byte_of_not_inDestination hwf ha hdst] at hinside
    rw [hinside, serve_byte_inside hwf hmap hj]
  · intro hx
    refine serve_byte_of_not_inDestination hwfa hba ?_
    rwa [InDestination, hchan]

end

/-- Settles O37: what either order gives a channel or a byte is what the request that writes it gives alone. -/
theorem requestsOnTwoChannelsCommute : Obligations.RequestsOnTwoChannelsCommute := by
  intro s a b hab hwf ha hb hdisjoint
  have hspares : Spares s a b := by
    refine fun j hj => ⟨?_, ?_⟩ <;> rintro ⟨i, hi, e⟩
    · exact (hdisjoint i hi j hj).2.1 e.symm
    · exact (hdisjoint i hi j hj).1 e.symm
  have hspares' : Spares s b a := by
    refine fun i hi => ⟨?_, ?_⟩ <;> rintro ⟨j, hj, e⟩
    · exact (hdisjoint i hi j hj).2.2 e.symm
    · exact (hdisjoint i hi j hj).1 e
  refine ⟨_, _, _, _, exec_req_of_serves ha, exec_req_of_serves (serves_serve_other hab hb), exec_req_of_serves hb,
    exec_req_of_serves (serves_serve_other hab.symm ha), fun ch => ?_, fun x => ?_⟩
  · rw [serve_serve_chan hab hwf ha hb hspares, serve_serve_chan hab.symm hwf hb ha hspares']
    split_ifs with hcb hca hca
    · exact absurd (hca.symm.trans hcb) hab
    · rw [hcb]
    · rw [hca]
    · rw [serve_chan_other s hca, serve_chan_other s hcb]
  · obtain ⟨hinb, hnotb⟩ := serve_serve_byte hab hwf ha hb hspares x
    obtain ⟨hina, hnota⟩ := serve_serve_byte hab.symm hwf hb ha hspares' x
    by_cases hxb : InDestination s b x
    · have hxa : ¬ InDestination s a x := by
        obtain ⟨j, hj, rfl⟩ := hxb
        exact (hspares j hj).2
      rw [hinb hxb, hnota hxa]
    · rw [hnotb hxb]
      by_cases hxa : InDestination s a x
      · rw [hina hxa]
      · rw [hnota hxa, serve_byte_of_not_inDestination hwf ha hxa, serve_byte_of_not_inDestination hwf hb hxb]

/-! ### A run of requests on one channel -/

/-- A request at the head of the schedule that is served: its channel moves one element, and the entry is gone. -/
theorem step_of_served_req {s : State} {ch : ChIx} {rest : List Input}
    (hsched : s.sched = .evt (packLabel 0x80#8 ch) :: rest) (hserves : Serves s ch) :
    ∃ t, step s = .next t ∧ SameInstance s t ∧ t.chan ch = advance (s.chan ch) (movedRecord s ch) ∧ t.sched = rest := by
  obtain ⟨hch, -⟩ := id hserves
  have hstep := step_of_evt hsched (decode_encode (.req ch))
  rw [exec_req_of_serves (s := { s with sched := rest }) hserves] at hstep
  refine ⟨_, hstep, sameInstance_serve { s with sched := rest } ch,
    serve_chan_self (s := { s with sched := rest }) hch, ?_⟩
  rw [serve_eq]

/-- What holds of the channel after each of its first `j` requests holds after a run of `j` requests: if it lets each
of them be served, and one element moved takes it from `k` requests to `k + 1`. By induction on the requests to come. -/
theorem run_reqInputs {p : Params} {ch : ChIx} {j : Nat} {rest : List Input} {After : Nat → Channel → Prop}
    (hserved : ∀ k c, k < j → After k c → running c = true ∧ moveEnabled p c = true)
    (hmoved : ∀ k c r, k < j → After k c → r.addr = c.dst → r.size = elemSize c.cfg → After (k + 1) (advance c r))
    (n : Nat) {k : Nat} (hk : k + n = j) {s : State} (hpar : s.par = p) (hch : ch.toNat < s.nCh)
    (hsched : s.sched = reqInputs ch n ++ rest) (hafter : After k (s.chan ch)) :
    ∃ t, run n s = .next t ∧ After j (t.chan ch) ∧ t.sched = rest := by
  induction n generalizing k s with
  | zero => exact ⟨s, rfl, hk ▸ hafter, hsched⟩
  | succ n ih =>
    have hserves : Serves s ch := serves_iff.mpr ⟨hch, hpar ▸ hserved k _ (by omega) hafter⟩
    obtain ⟨t, hstep, ⟨hpar', hnCh⟩, hchan, hsched'⟩ := step_of_served_req hsched hserves
    rw [run_succ hstep]
    exact ih (by omega) (hpar'.trans hpar) (hnCh ▸ hch) hsched' (hchan ▸ hmoved k _ _ (by omega) hafter rfl rfl)

/-- The channel `c₀` after `k` served requests: its descriptor as it was and `k` more records in its log, each of its
element size to its destination (R40, R181). -/
structure Delivered (c₀ : Channel) (k : Nat) (c : Channel) : Prop where
  descriptor : KeepsDescriptor c₀ c
  log : ∃ recs, c.out = c₀.out ++ recs ∧ recs.length = k ∧ ∀ r ∈ recs, r.addr = c₀.dst ∧ r.size = elemSize c₀.cfg

theorem delivered_zero (c : Channel) : Delivered c 0 c :=
  ⟨⟨rfl, rfl, rfl, rfl, rfl, rfl, rfl⟩, [], (List.append_nil _).symm, rfl, nofun⟩

theorem Delivered.advance {c₀ c : Channel} {k : Nat} {r : OutRec} (h : Delivered c₀ k c) (haddr : r.addr = c.dst)
    (hsize : r.size = elemSize c.cfg) : Delivered c₀ (k + 1) (advance c r) := by
  obtain ⟨⟨hcfg, hcv, hsrc, hdst, hrel, hav, hen⟩, recs, hout, hlen, hrecs⟩ := h
  obtain ⟨hcfg', hcv', hsrc', hdst', hrel', hav', hen'⟩ := advance_keepsDescriptor c r
  refine ⟨⟨hcfg'.trans hcfg, hcv'.trans hcv, hsrc'.trans hsrc, hdst'.trans hdst, hrel'.trans hrel, hav'.trans hav,
    hen'.trans hen⟩, recs ++ [r], ?_, by rw [List.length_append, hlen, List.length_singleton], fun q hq => ?_⟩
  · rw [advance_out, hout, List.append_assoc]
  · obtain hold | hnew := List.mem_append.mp hq
    · exact hrecs q hold
    · rw [List.mem_singleton.mp hnew, haddr, hsize, hdst, hcfg]
      exact ⟨rfl, rfl⟩

/-- The source elements of a transfer of `n` elements and its destination are mapped (R66). -/
def TransferMapped (p : Params) (c : Channel) (n : Nat) : Prop :=
  (∀ i < n * elemSize c.cfg, mapped p (c.src.toNat + i) = true)
    ∧ ∀ i < elemSize c.cfg, mapped p (c.dst.toNat + i) = true

/-- Element `k` of a mapped transfer lies in its source bytes. -/
theorem TransferMapped.element {p : Params} {c : Channel} {n k : Nat} (h : TransferMapped p c n) (hk : k < n) :
    ∀ i < elemSize c.cfg, mapped p (c.src.toNat + k * elemSize c.cfg + i) = true := by
  intro i hi
  have hend : (k + 1) * elemSize c.cfg ≤ n * elemSize c.cfg := Nat.mul_le_mul_right _ hk
  rw [Nat.succ_mul] at hend
  rw [Nat.add_assoc]
  exact h.1 _ (by omega)

/-- Element `k` of a mapped transfer begins below 2^32 (R60). -/
theorem TransferMapped.element_lt {p : Params} {c : Channel} {n k : Nat} (h : TransferMapped p c n) (hk : k < n) :
    c.src.toNat + k * elemSize c.cfg < 2 ^ 32 := by
  have hsize : 0 < elemSize c.cfg := by obtain e | e := elemSize_cases c.cfg <;> omega
  exact mapped_lt (h.element hk 0 hsize)

/-- With the cursor at element `k` of a mapped transfer, the next move is enabled (R180). -/
theorem TransferMapped.moveEnabled {p : Params} {c₀ c : Channel} {n k : Nat} (h : TransferMapped p c₀ n) (hk : k < n)
    (hkeep : KeepsDescriptor c₀ c) (hcur : c.cur.toNat = c₀.src.toNat + k * elemSize c₀.cfg) :
    moveEnabled p c = true := by
  obtain ⟨hcfg, -, -, hdst, -⟩ := hkeep
  rw [moveEnabled_iff, hcfg, hdst, hcur]
  exact ⟨h.element hk, h.2⟩

/-- A one-shot transfer begun as `c₀`, after `k` of its requests (R182, R187). -/
structure OneShotAfter (c₀ : Channel) (k : Nat) (c : Channel) : Prop extends Delivered c₀ k c where
  cnt : c.cnt.toNat + k = c₀.cnt.toNat
  cur : c.cur.toNat = (c₀.src.toNat + k * elemSize c₀.cfg) % 2 ^ 32
  tcf : c.tcf = true ↔ k = c₀.cnt.toNat

/-- A circular transfer begun as `c₀`, after `k` of its requests (R183, R187). -/
structure CircularAfter (c₀ : Channel) (k : Nat) (c : Channel) : Prop extends Delivered c₀ k c where
  cnt : c.cnt.toNat + k % c₀.cnt.toNat = c₀.cnt.toNat
  cur : c.cur.toNat = c₀.src.toNat + k % c₀.cnt.toNat * elemSize c₀.cfg
  tcf : c.tcf = c₀.tcf

section
variable {p : Params} {c₀ c : Channel} {k : Nat}

theorem OneShotAfter.served (h : OneShotAfter c₀ k c) (hen : c₀.en = true) (hmap : TransferMapped p c₀ c₀.cnt.toNat)
    (hk : k < c₀.cnt.toNat) : running c = true ∧ moveEnabled p c = true := by
  obtain ⟨-, -, -, -, -, -, hen'⟩ := h.descriptor
  have hcnt := h.cnt
  refine ⟨running_iff.mpr ⟨hen'.trans hen, by bv_omega⟩, hmap.moveEnabled hk h.descriptor ?_⟩
  rw [h.cur, Nat.mod_eq_of_lt (hmap.element_lt hk)]

/-- One more request of a one-shot transfer, the last one where it brings the count to 0 (R182). -/
theorem OneShotAfter.advance {r : OutRec} (h : OneShotAfter c₀ k c) (hcirc : c₀.cfg.circ = false)
    (hk : k < c₀.cnt.toNat) (haddr : r.addr = c.dst) (hsize : r.size = elemSize c.cfg) :
    OneShotAfter c₀ (k + 1) (advance c r) := by
  have hdelivered := h.toDelivered.advance haddr hsize
  obtain ⟨hcfg, -⟩ := h.descriptor
  have hcnt := h.cnt
  have hcur : (c.cur + BitVec.ofNat 32 (elemSize c.cfg)).toNat
      = (c₀.src.toNat + (k + 1) * elemSize c₀.cfg) % 2 ^ 32 := by
    rw [toNat_cursor_add, h.cur, hcfg, Nat.mod_add_mod, Nat.add_assoc, Nat.succ_mul]
  by_cases hone : c.cnt = 1#16
  · have hlast : k + 1 = c₀.cnt.toNat := by bv_omega
    have e := advance_of_oneShot r hone (hcfg ▸ hcirc)
    refine ⟨hdelivered, ?_, ?_, ?_⟩ <;> rw [e]
    · exact (Nat.zero_add _).trans hlast
    · exact hcur
    · exact iff_of_true rfl hlast
  · obtain ⟨hfall, hmore⟩ := toNat_cnt_sub_one (by omega) hone
    have e := advance_of_cnt_ne_one r hone
    refine ⟨hdelivered, ?_, ?_, ?_⟩ <;> rw [e]
    · show (c.cnt - 1#16).toNat + (k + 1) = _
      omega
    · exact hcur
    · exact h.tcf.trans (iff_of_false (by omega) (by omega))

theorem CircularAfter.served (h : CircularAfter c₀ k c) (hen : c₀.en = true)
    (hmap : TransferMapped p c₀ c₀.cnt.toNat) (hpos : 1 ≤ c₀.cnt.toNat) :
    running c = true ∧ moveEnabled p c = true := by
  obtain ⟨-, -, -, -, -, -, hen'⟩ := h.descriptor
  have hcnt := h.cnt
  have hk : k % c₀.cnt.toNat < c₀.cnt.toNat := Nat.mod_lt _ hpos
  exact ⟨running_iff.mpr ⟨hen'.trans hen, by bv_omega⟩, hmap.moveEnabled hk h.descriptor h.cur⟩

/-- One more request of a circular transfer: the last of a round begins the next one (R183). -/
theorem CircularAfter.advance {r : OutRec} (h : CircularAfter c₀ k c) (hcirc : c₀.cfg.circ = true)
    (hreload : c₀.cntReload = c₀.cnt) (hmap : TransferMapped p c₀ c₀.cnt.toNat) (hpos : 1 ≤ c₀.cnt.toNat)
    (haddr : r.addr = c.dst) (hsize : r.size = elemSize c.cfg) : CircularAfter c₀ (k + 1) (advance c r) := by
  have hdelivered := h.toDelivered.advance haddr hsize
  obtain ⟨hcfg, -, hsrc, -, hrel, -⟩ := h.descriptor
  have hcnt := h.cnt
  have hround : k % c₀.cnt.toNat < c₀.cnt.toNat := Nat.mod_lt _ hpos
  by_cases hone : c.cnt = 1#16
  · have hlast : k % c₀.cnt.toNat + 1 = c₀.cnt.toNat := by bv_omega
    have hnext : (k + 1) % c₀.cnt.toNat = 0 := by
      rw [← Nat.mod_add_mod, hlast, Nat.mod_self]
    have e := advance_of_circular r hone (hcfg ▸ hcirc)
    refine ⟨hdelivered, ?_, ?_, ?_⟩ <;> rw [e]
    · rw [hnext, hrel, hreload]; rfl
    · rw [hnext, hsrc, Nat.zero_mul]; rfl
    · exact h.tcf
  · obtain ⟨hfall, hmore⟩ := toNat_cnt_sub_one (by omega) hone
    have hnext : (k + 1) % c₀.cnt.toNat = k % c₀.cnt.toNat + 1 := by
      rw [← Nat.mod_add_mod, Nat.mod_eq_of_lt (by omega)]
    have hcur : c.cur.toNat + elemSize c₀.cfg = c₀.src.toNat + (k % c₀.cnt.toNat + 1) * elemSize c₀.cfg := by
      rw [h.cur, Nat.succ_mul, Nat.add_assoc]
    have hlt := hmap.element_lt (k := k % c₀.cnt.toNat + 1) (by omega)
    have e := advance_of_cnt_ne_one r hone
    refine ⟨hdelivered, ?_, ?_, ?_⟩ <;> rw [e]
    · show (c.cnt - 1#16).toNat + (k + 1) % c₀.cnt.toNat = _
      omega
    · rw [hnext, hcfg, toNat_cursor_add, hcur, Nat.mod_eq_of_lt hlt]
    · exact h.tcf

end

/-- Settles O35: `OneShotAfter` holds before the first request and each served request carries it on. -/
theorem oneShotRunCountsDown : Obligations.OneShotRunCountsDown := by
  intro s ch j rest c w hch hen hcirc htcf hpos hcur hsrc hdst hj hsched
  have hmap : TransferMapped s.par c c.cnt.toNat := ⟨hsrc, hdst⟩
  have hstart : OneShotAfter c 0 c := by
    refine ⟨delivered_zero c, rfl, ?_, iff_of_false (ne_true_of_eq_false htcf) (by omega)⟩
    rw [hcur, Nat.zero_mul, Nat.add_zero, Nat.mod_eq_of_lt c.src.isLt]
  obtain ⟨t, hrun, hafter, hrest⟩ := run_reqInputs (p := s.par) (After := OneShotAfter c)
    (fun k d hk h => h.served hen hmap (by omega)) (fun k d r hk h => h.advance hcirc (by omega))
    j (Nat.zero_add j) rfl hch hsched hstart
  obtain ⟨⟨⟨-, -, -, -, -, -, hen'⟩, recs, hout, hlen, hrecs⟩, hcnt', hcur', htcf'⟩ := hafter
  exact ⟨t, recs, hrun, by omega, hcur', hout, hlen, hrecs, htcf', hen'.trans hen, hrest⟩

/-- Settles O36: `CircularAfter` holds before the first request and each served request carries it on. -/
theorem circularRunCycles : Obligations.CircularRunCycles := by
  intro s ch j rest c w hch hen hcirc hpos hreload hcur hsrc hdst hsched
  have hmap : TransferMapped s.par c c.cnt.toNat := ⟨hsrc, hdst⟩
  have hstart : CircularAfter c 0 c := by
    refine ⟨delivered_zero c, ?_, ?_, rfl⟩
    · rw [Nat.zero_mod, Nat.add_zero]
    · rw [hcur, Nat.zero_mod, Nat.zero_mul, Nat.add_zero]
  obtain ⟨t, hrun, hafter, hrest⟩ := run_reqInputs (p := s.par) (After := CircularAfter c)
    (fun k d hk h => h.served hen hmap hpos) (fun k d r hk h => h.advance hcirc hreload hmap hpos)
    j (Nat.zero_add j) rfl hch hsched hstart
  obtain ⟨⟨-, recs, hout, hlen, -⟩, hcnt', hcur', htcf'⟩ := hafter
  exact ⟨t, recs, hrun, by omega, hcur', hout, hlen, htcf', hrest⟩

end Sys2Proof.Machine

/-! The family of spec/43_chunk_fsm.md: the FSM's commands (O38, O39, O44, O45), its steps and the bus error (O40 to
O43), its transitions (O54), who may write while it runs (O55), what a chunked transfer conserves (O47), and a whole
chunked transfer (O48). -/

namespace Sys2Proof.Machine

/-! ### What a write of the FSM's leaves unchanged -/

/-- The state with the registers of CH_K, those of the chunk FSM and the response port replaced. -/
def State.writeK (s : State) (c : Channel) (f : FsmRegs) (rsp : Option Response) : State :=
  { s.withRegs s.par.chK c f with rsp := rsp }

/-- What every operation of the FSM's leaves as it was: the other channels, the host's store command, memory,
the parameters and the inputs to come. -/
abbrev FsmFrame (s t : State) : Prop :=
  KeepsOtherChannels s.par.chK s t ∧ KeepsStore s t ∧ KeepsMemory s t ∧ KeepsPlatform s t

theorem kChan_writeK {s : State} (hk : s.par.chK.toNat < s.nCh) (c : Channel) (f : FsmRegs) (rsp : Option Response) :
    (s.writeK c f rsp).kChan = c := State.kChan_setK s c hk

theorem fsmFrame_writeK (s : State) (c : Channel) (f : FsmRegs) (rsp : Option Response) :
    FsmFrame s (s.writeK c f rsp) :=
  have hplatform : KeepsPlatform s (s.writeK c f rsp) := ⟨rfl, State.setChan_nCh s s.par.chK c, rfl, rfl, rfl⟩
  ⟨fun _ => State.chan_setChan_ne s c, rfl, fun _ => rfl, hplatform⟩

/-! ### CKSTART -/

/-- The checks of CKSTART in the order of their status codes, and its writes (R202, R242). -/
theorem exec_ckstart (len off : BitVec 32) (s : State) : exec (.ckstart len off) s =
    if s.st ≠ .idle ∨ s.kChan.en = true then reject s .eBusy
    else if s.kChan.cv = false ∨ s.kChan.av = false then reject s .eNoCfg
    else if s.kChan.cfg.width ≠ 0#2 ∨ s.kChan.cfg.circ = true then reject s .eField
    else if s.kChan.tcf = true then reject s .eState
    else if len = 0#32 then reject s .eCount
    else if 2 ^ 32 < s.kChan.src.toNat + off.toNat + len.toNat then reject s .eRange
    else .next (s.writeK { s.kChan with cur := s.kChan.src + off, cnt := chunkLength s.par len, en := true }
      ⟨.active, len, chunkLength s.par len, false, false, s.pulses⟩ (some ⟨0#4, 0#64⟩)) := by
  have hfield : cfgChunkable s.kChan.cfg = false ↔ s.kChan.cfg.width ≠ 0#2 ∨ s.kChan.cfg.circ = true := by
    simp [cfgChunkable, imp_iff_not_or]
  simp only [← hfield]
  simp [exec, execCkstart]
  rfl

/-- Settles O39: each cause falls through the checks before it. -/
theorem ckstartRejections : Obligations.CkstartRejections := by
  intro s len off c busy noCfg badField
  rw [exec_ckstart]
  refine ⟨fun hbusy => ?busy, fun hbusy hcfg => ?noCfg, fun hbusy hcfg hfield => ?badField,
    fun hbusy hcfg hfield htcf => ?badState, fun hbusy hcfg hfield htcf hlen => ?badCount,
    fun hbusy hcfg hfield htcf hlen htop => ?badRange⟩
  case busy => rw [if_pos hbusy]; rfl
  all_goals rw [if_neg hbusy]
  case noCfg => rw [if_pos hcfg]; rfl
  all_goals rw [if_neg hcfg]
  case badField => rw [if_pos hfield]; rfl
  all_goals rw [if_neg hfield]
  case badState => rw [if_pos htcf]; rfl
  all_goals rw [if_neg (ne_true_of_eq_false htcf)]
  case badCount => rw [if_pos hlen]; rfl
  case badRange => rw [if_neg hlen, if_pos htop]; rfl

/-- Settles O38: the premises are the negations of CKSTART's causes. -/
theorem ckstartBeginsATransfer : Obligations.CkstartBeginsATransfer := by
  intro s len off hk hst hen hcv hav hwidth hcirc htcf hlen htop
  have hexec := exec_ckstart len off s
  rw [if_neg (by simp [hst, hen]), if_neg (by simp [hcv, hav]), if_neg (by simp [hwidth, hcirc]),
    if_neg (ne_true_of_eq_false htcf), if_neg hlen, if_neg htop.not_gt] at hexec
  have hpos := toNat_pos_of_ne_zero hlen
  have hcur : (s.kChan.src + off).toNat = s.kChan.src.toNat + off.toNat := by
    rw [BitVec.toNat_add, Nat.mod_eq_of_lt (by omega)]
  obtain ⟨hothers, hstore, hmem, hplatform⟩ := fsmFrame_writeK s _ _ _
  exact ⟨_, _, _, hexec, rfl, chunkLength_toNat .., hcur, kChan_writeK hk .., rfl, rfl, rfl, rfl, rfl, hothers, rfl,
    hstore, hmem, hplatform⟩

/-! ### CKCANCEL and CKSTAT -/

/-- Settles O44: an FSM in Idle leaves the gate of CH_K as it is. -/
theorem ckcancelResetsTheCursor : Obligations.CkcancelResetsTheCursor := by
  intro s hk
  by_cases hst : s.st = .idle
  · have hexec : exec .ckcancel s =
        .next (s.writeK s.kChan ⟨.idle, 0#32, 0#16, s.done, s.err, s.pulses⟩ (some ⟨0#4, 0#64⟩)) := by
      rw [State.writeK, State.withRegs_kChan]
      simp [exec, execCkcancel, hst, respond_eq]
    obtain ⟨hothers, hstore, hmem, hplatform⟩ := fsmFrame_writeK s _ _ _
    exact ⟨_, hexec, rfl, rfl, rfl, rfl, fun hne => absurd hst hne, fun _ => kChan_writeK hk .., rfl, rfl, hothers,
      rfl, hstore, hmem, hplatform⟩
  · have hexec : exec .ckcancel s = .next (s.writeK { s.kChan with en := false }
        ⟨.idle, 0#32, 0#16, s.done, s.err, s.pulses⟩ (some ⟨0#4, 0#64⟩)) := by
      have hbusy : (s.st != .idle) = true := by simpa using hst
      simp only [exec, execCkcancel, hbusy, if_true]
      rfl
    obtain ⟨hothers, hstore, hmem, hplatform⟩ := fsmFrame_writeK s _ _ _
    exact ⟨_, hexec, rfl, rfl, rfl, rfl, fun _ => kChan_writeK hk .., fun e => absurd e hst, rfl, rfl, hothers,
      rfl, hstore, hmem, hplatform⟩

/-- The fields of CKSTAT's answer at their bits (R210). -/
theorem chunkStatus_fields (s : State) :
    (chunkStatus s).extractLsb' 0 32 = s.rem ∧ (chunkStatus s).extractLsb' 32 2 = chunkStateCode s.st
      ∧ (chunkStatus s).getLsbD 34 = s.done ∧ (chunkStatus s).getLsbD 35 = s.err
      ∧ (chunkStatus s).extractLsb' 36 16 = s.chunk ∧ (chunkStatus s).extractLsb' 52 12 = 0#12 := by
  unfold chunkStatus
  refine ⟨BitVec.extractLsb'_append_eq_right, ?code, ?done, ?err, ?chunk, ?zero⟩
  case done => simp only [BitVec.getLsbD_append]; simp
  case err => simp only [BitVec.getLsbD_append]; simp
  all_goals rw [BitVec.extractLsb'_append_eq_of_le (by decide)]
  case code => exact BitVec.extractLsb'_append_eq_right
  all_goals
    rw [BitVec.extractLsb'_append_eq_of_le (by decide), BitVec.extractLsb'_append_eq_of_le (by decide),
      BitVec.extractLsb'_append_eq_of_le (by decide)]
  case chunk => exact BitVec.extractLsb'_append_eq_right
  case zero => exact BitVec.extractLsb'_append_eq_left

/-- Settles O45, the code of ST by its four values. -/
theorem ckstatAnswersTheFsm : Obligations.CkstatAnswersTheFsm := by
  intro s
  obtain ⟨hrem, hst, hdone, herr, hchunk, hzero⟩ := chunkStatus_fields s
  refine ⟨chunkStatus s, rfl, hrem, hdone, herr, hchunk, hzero, ?_⟩
  refine ⟨fun h => ?_, fun h => ?_, fun h => ?_, fun h => ?_⟩ <;> rw [hst, h] <;> rfl

/-! ### The FSM's steps and the bus error -/

theorem exec_service_of_enabled {s : State} (hst : s.st = .active) (htcf : s.kChan.tcf = true) :
    exec .service s = .next (s.writeK { s.kChan with tcf := false }
      { s.fsm with
        st := if s.rem - s.chunk.setWidth 32 = 0#32 then .done else .reloadNext
        rem := s.rem - s.chunk.setWidth 32 } s.rsp) := by
  have hon : serviceEnabled s = true := by simp [serviceEnabled, hst, htcf]
  exact if_pos hon

theorem exec_reload_of_enabled {s : State} (hst : s.st = .reloadNext) :
    exec .reload s = .next (s.writeK { s.kChan with cnt := chunkLength s.par s.rem }
      { s.fsm with
        st := .active, chunk := chunkLength s.par s.rem, pulses := s.pulses ++ [.chunkContinue] } s.rsp) := if_pos hst

theorem exec_finish_of_enabled {s : State} (hst : s.st = .done) :
    exec .finish s = .next (s.writeK { s.kChan with en := false }
      { s.fsm with st := .idle, chunk := 0#16, done := true, pulses := s.pulses ++ [.chunkDone] } s.rsp) := if_pos hst

theorem exec_buserr_of_running {s : State} (hst : s.st = .active ∨ s.st = .reloadNext) :
    exec .buserr s = .next (s.writeK { s.kChan with en := false }
      { s.fsm with st := .idle, rem := 0#32, chunk := 0#16, err := true } s.rsp) := if_pos hst

/-- The completed chunk taken off REM, under K1 (R204). -/
theorem toNat_rem_sub_chunk {s : State} (h : s.chunk.toNat ≤ s.rem.toNat) :
    (s.rem - s.chunk.setWidth 32).toNat = s.rem.toNat - s.chunk.toNat := by
  bv_omega

/-- Settles O40: what is left of REM is 0 exactly when it was CHUNK. -/
theorem serviceTakesTheCompletion : Obligations.ServiceTakesTheCompletion := by
  refine ⟨fun s t h => ?_, fun s hk hst htcf hle => ?_⟩
  · obtain ⟨hst, htcf, -⟩ := execService_next h
    exact ⟨hst, htcf⟩
  · have hrem := toNat_rem_sub_chunk hle
    obtain ⟨hothers, hstore, hmem, hplatform⟩ := fsmFrame_writeK s _ _ _
    exact ⟨_, exec_service_of_enabled hst htcf, kChan_writeK hk .., hrem, fun hmore => if_neg (by bv_omega),
      fun hlast => if_pos (by bv_omega), rfl, rfl, rfl, rfl, hothers, rfl, hstore, hmem, hplatform⟩

/-- Settles O41: the chunk length is written to both registers. -/
theorem reloadWritesTheLengthRegister : Obligations.ReloadWritesTheLengthRegister := by
  refine ⟨fun s t h => (execReload_next h).1, fun s hk hst => ?_⟩
  obtain ⟨hothers, hstore, hmem, hplatform⟩ := fsmFrame_writeK s _ _ _
  exact ⟨_, _, exec_reload_of_enabled hst, chunkLength_toNat .., kChan_writeK hk .., rfl, rfl, rfl, rfl, rfl, rfl, rfl,
    hothers, hstore, hmem, hplatform⟩

/-- Settles O42: DONE drives its interrupt line. -/
theorem finishSignalsCompletion : Obligations.FinishSignalsCompletion := by
  refine ⟨fun s t h => (execFinish_next h).1, fun s hk hst => ?_⟩
  obtain ⟨hothers, hstore, hmem, hplatform⟩ := fsmFrame_writeK s _ _ _
  exact ⟨_, exec_finish_of_enabled hst, kChan_writeK hk .., rfl, rfl, rfl, rfl, rfl, rfl, rfl, rfl, hothers, hstore,
    hmem, hplatform⟩

/-- Settles O43: Idle and Done are the two states in which no frame is under way. -/
theorem buserrDropsTheFrame : Obligations.BuserrDropsTheFrame := by
  intro s hk
  refine ⟨fun hst => ?_, fun hst => if_neg ?_⟩
  · obtain ⟨hothers, hstore, hmem, hplatform⟩ := fsmFrame_writeK s _ _ _
    exact ⟨_, exec_buserr_of_running hst, kChan_writeK hk .., rfl, rfl, rfl, rfl, rfl, rfl, hothers, rfl, hstore, hmem,
      hplatform⟩
  · obtain h | h := hst <;> simp [h]

/-! ### The transitions of ST -/

/-- Settles O54: of the listed writes the ones that change ST are the rows of R216, each from its own state. -/
theorem fsmTakesOnlyTheListedTransitions : Obligations.FsmTakesOnlyTheListedTransitions := by
  intro i s t h hne
  by_cases hrst : i = .rst
  · subst hrst
    cases h
    exact .inr (.inr (.inr (.inr (.inr (.inr (.inr ⟨rfl, rfl⟩))))))
  obtain ⟨-, hf⟩ | ⟨ch, c, f, hw, -, hf⟩ := exec_regs h hrst
  · exact absurd (congrArg FsmRegs.st hf) hne
  have hst : t.st = f.st := congrArg FsmRegs.st hf
  have hrem : t.rem = f.rem := congrArg FsmRegs.rem hf
  have herr : t.err = f.err := congrArg FsmRegs.err hf
  cases hw with
  | ckstart hacc => exact .inl ⟨hacc.1, ⟨_, _, rfl⟩, hst⟩
  | service hs =>
    refine .inr (.inl ⟨hs, rfl, ?_⟩)
    by_cases hleft : s.rem - s.chunk.setWidth 32 = 0#32
    · exact .inr ⟨hleft, hst.trans (if_pos hleft)⟩
    · exact .inl ⟨hleft, hst.trans (if_neg hleft)⟩
  | reload hs => exact .inr (.inr (.inl ⟨hs, rfl, hst⟩))
  | finish hs => exact .inr (.inr (.inr (.inl ⟨hs, rfl, hst⟩)))
  | buserr hs => exact .inr (.inr (.inr (.inr (.inl ⟨hs, rfl, hst, herr⟩))))
  | disK => exact .inr (.inr (.inr (.inr (.inr (.inl ⟨rfl, hst, hrem⟩)))))
  | ckcancel => exact .inr (.inr (.inr (.inr (.inr (.inr (.inl ⟨rfl, hst, hrem⟩))))))
  | ckcancelIdle | cfg | arm | en | dis | clrtc | req => exact absurd hst hne

/-! ### Writers while the FSM runs -/

/-- While the FSM is not Idle, its channel is enabled (R39). -/
theorem enabled_of_not_idle {s : State} (h : ChunkInv s) (hst : s.st ≠ .idle) : s.kChan.en = true := by
  by_contra hen
  exact hst (idle_of_disabled h (by simpa using hen))

/-- `RunningWrite s i c f`: the operation `i`, in a state whose FSM is not Idle, leaves CH_K with the registers `c` and
the FSM with the registers `f` (R215, R216). -/
inductive RunningWrite (s : State) : Instr → Channel → FsmRegs → Prop
  | kept (i : Instr) : RunningWrite s i s.kChan s.fsm
  | stop {i : Instr} {f : FsmRegs} (c : Channel)
      (hi : i = .dis s.par.chK ∨ i = .ckcancel ∨ i = .buserr ∨ i = .finish) (hf : f.st = .idle) : RunningWrite s i c f
  | req (r : OutRec) (hrun : running s.kChan = true) :
      RunningWrite s (.req s.par.chK) (advance s.kChan r) s.fsm
  | service (hst : s.st = .active) (htcf : s.kChan.tcf = true) :
      RunningWrite s .service { s.kChan with tcf := false }
        { s.fsm with
          st := if s.rem - s.chunk.setWidth 32 = 0#32 then .done else .reloadNext
          rem := s.rem - s.chunk.setWidth 32 }
  | reload (hst : s.st = .reloadNext) :
      RunningWrite s .reload { s.kChan with cnt := chunkLength s.par s.rem }
        { s.fsm with
          st := .active, chunk := chunkLength s.par s.rem, pulses := s.pulses ++ [.chunkContinue] }

/-- Of the listed writes to CH_K, CFG, ARM and CKSTART need the channel disabled or the FSM Idle, as does CLRTC, and EN
finds the channel enabled. -/
theorem RegWrite.running {s : State} {i : Instr} {ch : ChIx} {c : Channel} {f : FsmRegs} (hw : RegWrite s i ch c f)
    (hk : ch = s.par.chK) (h : ChunkInv s) (hst : s.st ≠ .idle) : RunningWrite s i c f := by
  have hon := enabled_of_not_idle h hst
  cases hw with
  | cfg hen => subst hk; exact absurd hon (ne_true_of_eq_false hen)
  | arm hen => subst hk; exact absurd hon (ne_true_of_eq_false hen)
  | en =>
    subst hk
    have hsame : { s.kChan with en := true } = s.kChan := by rw [← hon]
    exact hsame ▸ .kept _
  | dis hne => exact absurd hk hne
  | clrtc hidle => exact absurd (hidle.resolve_left fun hne => hne hk) hst
  | ckstart hacc => exact absurd hacc.1 hst
  | ckcancelIdle hidle => exact absurd hidle hst
  | disK => exact .stop _ (.inl rfl) rfl
  | ckcancel => exact .stop _ (.inr (.inl rfl)) rfl
  | buserr => exact .stop _ (.inr (.inr (.inl rfl))) rfl
  | finish => exact .stop _ (.inr (.inr (.inr rfl))) rfl
  | req r hrun => subst hk; exact .req r hrun
  | service hs htcf => exact .service hs htcf
  | reload hs => exact .reload hs

theorem kChan_of_chans {s t : State} (hp : t.par = s.par) (hc : t.chans = s.chans) : t.kChan = s.kChan := by
  rw [State.kChan, hp]
  exact State.chan_of_chans hc _

/-- What an operation other than RST does to CH_K and the FSM while the FSM is not Idle. -/
theorem exec_running {i : Instr} {s t : State} (h : Inv s) (he : exec i s = .next t) (hi : i ≠ .rst)
    (hst : s.st ≠ .idle) : ∃ c f, RunningWrite s i c f ∧ t.kChan = c ∧ t.fsm = f := by
  obtain ⟨hwf, -, hchunk, -⟩ := h
  obtain ⟨hk, -⟩ := wellFormed_chK_cap hwf
  obtain ⟨hpar, -⟩ := exec_sameInstance he
  obtain ⟨hc, hf⟩ | ⟨ch, c, f, hw, hc, hf⟩ := exec_regs he hi
  · exact ⟨_, _, .kept i, kChan_of_chans hpar hc, hf⟩
  have hchan : t.kChan = (s.setChan ch c).kChan := kChan_of_chans hpar hc
  by_cases hch : ch = s.par.chK
  · subst hch
    exact ⟨_, _, hw.running rfl hchunk hst, hchan.trans (State.kChan_setK s c hk), hf⟩
  · exact ⟨_, _, .kept i, hchan.trans (State.chan_setChan_ne s c (Ne.symm hch)), hf.trans (hw.fsm_of_ne hch)⟩

/-- Settles O55: of the writes of `RunningWrite` the commands among them are DIS of CH_K and CKCANCEL; the rest of the
statement is E_BUSY in O22, O24, O28 and O39. -/
theorem sharedRegistersHaveOneWriter : Obligations.SharedRegistersHaveOneWriter := by
  intro s h hst
  obtain ⟨hwf, -, hchunk, -⟩ := id h
  obtain ⟨hk, -⟩ := wellFormed_chK_cap hwf
  have hen := enabled_of_not_idle hchunk hst
  refine ⟨fun i t hi hdis hcancel he => ?_, fun f src dst n l o => ?_⟩
  · have hrst : i ≠ .rst := by rintro rfl; nomatch hi
    obtain ⟨c, f, hw, hchan, hf⟩ := exec_running h he hrst hst
    cases hw with
    | kept =>
      obtain ⟨hst', hrem, hchunk', -⟩ := FsmRegs.mk.inj hf
      exact ⟨hst', hrem, hchunk', hchan⟩
    | stop _ hstop =>
      obtain e | e | rfl | rfl := hstop
      · exact absurd e hdis
      · exact absurd e hcancel
      · nomatch hi
      · nomatch hi
    | req | service | reload => nomatch hi
  · simp only [List.forall_mem_cons]
    exact ⟨(cfgRejections s _ f hk).1 hen, (armRejections s _ src dst n hk).1 hen,
      (clrtcClearsTheFlag s _ hk).2 rfl hst, (ckstartRejections s l o).1 (.inl hst), nofun⟩

/-! ### What a chunked transfer conserves -/

section
variable {s : State}

theorem reloadsLeft_of_active (h : s.st = .active) :
    reloadsLeft s = ceilDiv s.rem.toNat s.par.cap.toNat - 1 := by simp only [reloadsLeft, h]

theorem reloadsLeft_of_reloadNext (h : s.st = .reloadNext) :
    reloadsLeft s = ceilDiv s.rem.toNat s.par.cap.toNat := by simp only [reloadsLeft, h]

theorem reloadsLeft_of_done (h : s.st = .done) : reloadsLeft s = 0 := by simp only [reloadsLeft, h]

theorem bytesLeft_of_active (h : s.st = .active) :
    bytesLeft s = s.kChan.cnt.toNat + (s.rem.toNat - s.chunk.toNat) := by simp only [bytesLeft, h]

theorem bytesLeft_of_reloadNext (h : s.st = .reloadNext) : bytesLeft s = s.rem.toNat := by simp only [bytesLeft, h]

theorem bytesLeft_of_done (h : s.st = .done) : bytesLeft s = 0 := by simp only [bytesLeft, h]

end

theorem ceilDiv_pos {a b : Nat} (ha : 1 ≤ a) (hb : 1 ≤ b) : 1 ≤ ceilDiv a b :=
  (Nat.le_div_iff_mul_le hb).mpr (by omega)

/-- The last chunk is the only one left. -/
theorem ceilDiv_of_le {a b : Nat} (ha : 1 ≤ a) (h : a ≤ b) : ceilDiv a b = 1 :=
  Nat.div_eq_of_lt_le (by omega) (by omega)

/-- A full chunk taken off leaves one chunk less. -/
theorem ceilDiv_sub {a b : Nat} (hb : 1 ≤ b) (h : b ≤ a) : ceilDiv (a - b) b + 1 = ceilDiv a b := by
  rw [ceilDiv, ceilDiv, ← Nat.add_div_right _ hb]
  congr 1
  omega

/-- Reload events, delivered bytes and the end address, done plus to do, are the same in both states (R211, R39 K5). -/
structure TotalsKept (s t : State) : Prop where
  reloads : continuePulses t + reloadsLeft t = continuePulses s + reloadsLeft s
  bytes : t.kChan.out.length + bytesLeft t = s.kChan.out.length + bytesLeft s
  cursor : chunkEnd t % 2 ^ 32 = chunkEnd s % 2 ^ 32

/-- The totals are functions of the parameters, CH_K and the FSM's registers. -/
theorem totalsKept_of_kept {s t : State} (hp : t.par = s.par) (hk : t.kChan = s.kChan) (hf : t.fsm = s.fsm) :
    TotalsKept s t := by
  obtain ⟨hst, hrem, hchunk, -, -, hpulses⟩ := FsmRegs.mk.inj hf
  refine ⟨?_, ?_, ?_⟩ <;>
    simp only [continuePulses, reloadsLeft, chunkEnd, bytesLeft, hp, hk, hst, hrem, hchunk, hpulses]

/-- One byte moved in a chunk: the count falls and the cursor advances by 1, and the log grows by the record. -/
theorem advance_chunkable {c : Channel} (r : OutRec) (hcfg : cfgChunkable c.cfg = true) (hne : c.cnt ≠ 0#16) :
    (advance c r).cnt.toNat + 1 = c.cnt.toNat ∧ (advance c r).cur.toNat = (c.cur.toNat + 1) % 2 ^ 32
      ∧ (advance c r).out = c.out ++ [r] := by
  obtain ⟨hsize, hcirc⟩ := cfgChunkable_spec hcfg
  have hcur := toNat_cursor_add c.cur (elemSize c.cfg)
  refine ⟨?_, ?_, advance_out r⟩
  · by_cases hone : c.cnt = 1#16
    · rw [advance_of_oneShot r hone hcirc, hone]; rfl
    · rw [advance_of_cnt_ne_one r hone]
      exact (toNat_cnt_sub_one (toNat_pos_of_ne_zero hne) hone).1
  · rw [← hsize, ← hcur]
    by_cases hone : c.cnt = 1#16
    · rw [advance_of_oneShot r hone hcirc]
    · rw [advance_of_cnt_ne_one r hone]

/-- A channel runs in no other state of a busy FSM than Active (R39). -/
theorem active_of_running {s : State} (h : ChunkInv s) (hst : s.st ≠ .idle) (hrun : running s.kChan = true) :
    s.st = .active := by
  obtain ⟨-, hreload, hdone⟩ := h
  obtain ⟨-, hne⟩ := running_iff.mp hrun
  cases e : s.st with
  | idle => exact absurd e hst
  | active => rfl
  | reloadNext =>
    obtain ⟨-, -, -, hcnt, -⟩ := hreload e
    exact absurd hcnt hne
  | done =>
    obtain ⟨-, hcnt, -⟩ := hdone e
    exact absurd hcnt hne

/-- A byte moved goes from the bytes left to the bytes delivered (R181). -/
theorem totalsKept_req {s t : State} (r : OutRec) (hst : s.st = .active) (hcfg : cfgChunkable s.kChan.cfg = true)
    (hne : s.kChan.cnt ≠ 0#16) (hp : t.par = s.par) (hk : t.kChan = advance s.kChan r) (hf : t.fsm = s.fsm) :
    TotalsKept s t := by
  obtain ⟨hst', hrem, hchunk, -, -, hpulses⟩ := FsmRegs.mk.inj hf
  obtain ⟨hcnt, hcur, hout⟩ := advance_chunkable r hcfg hne
  have hleft := bytesLeft_of_active hst
  have hleft' := bytesLeft_of_active (hst'.trans hst)
  rw [hk, hrem, hchunk] at hleft'
  refine ⟨?_, ?_, ?_⟩
  · simp only [continuePulses, reloadsLeft, hst', hp, hrem, hpulses]
  · rw [hk, hout, List.length_append, List.length_singleton]
    omega
  · rw [chunkEnd, chunkEnd, hk, hcur]
    omega

/-- SERVICE takes a chunk off REM whose bytes were delivered already, and whose reload was done (R204). -/
theorem totalsKept_service {s t : State} (hst : s.st = .active) (h : ActiveInv s) (htcf : s.kChan.tcf = true)
    (hp : t.par = s.par) (hk : t.kChan = { s.kChan with tcf := false })
    (hst' : t.st = if s.rem - s.chunk.setWidth 32 = 0#32 then .done else .reloadNext)
    (hrem : t.rem = s.rem - s.chunk.setWidth 32) (hpulses : t.pulses = s.pulses) : TotalsKept s t := by
  obtain ⟨-, -, -, hlow, hcap, hle, hmin, -, hcnt, -⟩ := h
  have hzero : s.kChan.cnt.toNat = 0 := by rw [hcnt.mp htcf]; rfl
  have hsub := toNat_rem_sub_chunk hle
  have hchunk : s.chunk.toNat = min s.rem.toNat s.par.cap.toNat := hmin ▸ chunkLength_toNat ..
  have hleft := bytesLeft_of_active hst
  have hreloads := reloadsLeft_of_active hst
  obtain ⟨hbytes, hcount⟩ : bytesLeft t = bytesLeft s ∧ reloadsLeft t = reloadsLeft s := by
    by_cases hz : s.rem - s.chunk.setWidth 32 = 0#32
    · rw [if_pos hz] at hst'
      rw [hz, BitVec.toNat_ofNat] at hsub
      rw [bytesLeft_of_done hst', reloadsLeft_of_done hst', hreloads, ceilDiv_of_le (by omega) (by omega)]
      omega
    · rw [if_neg hz] at hst'
      have hpos := toNat_pos_of_ne_zero hz
      have hfull : s.chunk.toNat = s.par.cap.toNat := by omega
      have hone := ceilDiv_sub (a := s.rem.toNat) (b := s.par.cap.toNat) (by omega) (by omega)
      rw [bytesLeft_of_reloadNext hst', reloadsLeft_of_reloadNext hst', hreloads, hrem, hsub, hp, hfull]
      omega
  refine ⟨?_, ?_, ?_⟩
  · rw [hcount, continuePulses, hpulses, continuePulses]
  · rw [hbytes, hk]
  · rw [chunkEnd, hbytes, hk, chunkEnd]

/-- RELOAD is one of the reloads left, and gives the bytes left a chunk to be moved in (R205). -/
theorem totalsKept_reload {s t : State} (hst : s.st = .reloadNext) (h : ReloadNextInv s) (hcap : 1 ≤ s.par.cap.toNat)
    (hp : t.par = s.par) (hk : t.kChan = { s.kChan with cnt := chunkLength s.par s.rem }) (hst' : t.st = .active)
    (hrem : t.rem = s.rem) (hchunk : t.chunk = chunkLength s.par s.rem)
    (hpulses : t.pulses = s.pulses ++ [.chunkContinue]) : TotalsKept s t := by
  obtain ⟨-, -, -, -, -, hpos, -⟩ := h
  have hmin := chunkLength_toNat s.par s.rem
  have hbytes : bytesLeft t = bytesLeft s := by
    rw [bytesLeft_of_active hst', bytesLeft_of_reloadNext hst, hk, hrem, hchunk]
    simp only
    omega
  refine ⟨?_, ?_, ?_⟩
  · have hmore := ceilDiv_pos hpos hcap
    have hone : continuePulses t = continuePulses s + 1 := by simp [continuePulses, hpulses]
    rw [reloadsLeft_of_active hst', reloadsLeft_of_reloadNext hst, hone, hrem, hp]
    omega
  · rw [hbytes, hk]
  · rw [chunkEnd, hbytes, hk, chunkEnd]

/-- The end address of a chunked transfer lies in the address space (R39 K5). -/
theorem chunkEnd_le {s : State} (h : ChunkInv s) : chunkEnd s ≤ 2 ^ 32 := by
  obtain ⟨hactive, hreload, -⟩ := h
  have hcur := s.kChan.cur.isLt
  cases hst : s.st with
  | idle => simp only [chunkEnd, bytesLeft, hst]; omega
  | done => rw [chunkEnd, bytesLeft_of_done hst]; omega
  | active =>
    obtain ⟨-, -, -, -, -, -, -, -, -, htop, -⟩ := hactive hst
    rw [addrSpace_eq] at htop
    rw [chunkEnd, bytesLeft_of_active hst]
    omega
  | reloadNext =>
    obtain ⟨-, -, -, -, -, -, -, -, -, htop⟩ := hreload hst
    rw [addrSpace_eq] at htop
    rw [chunkEnd, bytesLeft_of_reloadNext hst]
    omega

/-- An operation from a busy FSM to a busy FSM keeps the totals, by the writes of `RunningWrite`. -/
theorem exec_totalsKept {i : Instr} {s t : State} (h : Inv s) (he : exec i s = .next t) (hst : s.st ≠ .idle)
    (hst' : t.st ≠ .idle) : TotalsKept s t := by
  have hrst : i ≠ .rst := by
    rintro rfl
    cases he
    exact hst' rfl
  obtain ⟨hwf, -, hchunk, -⟩ := id h
  obtain ⟨-, hcap⟩ := wellFormed_chK_cap hwf
  obtain ⟨hactive, hreload, -⟩ := id hchunk
  obtain ⟨hpar, -⟩ := exec_sameInstance he
  obtain ⟨c, f, hw, hk, hf⟩ := exec_running h he hrst hst
  cases hw with
  | kept => exact totalsKept_of_kept hpar hk hf
  | stop _ _ hidle => exact absurd ((congrArg FsmRegs.st hf).trans hidle) hst'
  | req r hrun =>
    have hs := active_of_running hchunk hst hrun
    obtain ⟨-, hcfg, -⟩ := hactive hs
    obtain ⟨-, hne⟩ := running_iff.mp hrun
    exact totalsKept_req r hs hcfg hne hpar hk hf
  | service hs htcf =>
    obtain ⟨hst₁, hrem, -, -, -, hpulses⟩ := FsmRegs.mk.inj hf
    exact totalsKept_service hs (hactive hs) htcf hpar hk hst₁ hrem hpulses
  | reload hs =>
    obtain ⟨hst₁, hrem, hchunk₁, -, -, hpulses⟩ := FsmRegs.mk.inj hf
    exact totalsKept_reload hs (hreload hs) hcap hpar hk hst₁ hrem hchunk₁ hpulses

/-- Settles O47: `exec_totalsKept`, and `chunkEnd_le` for the bound. -/
theorem chunkedTransferConservesItsTotals : Obligations.ChunkedTransferConservesItsTotals := by
  intro s t i h he hst hst'
  obtain ⟨hreloads, hbytes, hcursor⟩ := exec_totalsKept h he hst hst'
  obtain ⟨-, -, hchunk, -⟩ := h
  exact ⟨hreloads, hbytes, hcursor, chunkEnd_le hchunk⟩

/-! ### Runs -/

/-- One step of the machine leads from the one state to the other. -/
def StepsTo (s t : State) : Prop := step s = .next t

/-- Some number of steps leads from the one state to the other. -/
abbrev Reaches : State → State → Prop := Relation.ReflTransGen StepsTo

theorem run_of_reaches {s t : State} (h : Reaches s t) : ∃ n, run n s = .next t := by
  induction h using Relation.ReflTransGen.head_induction_on with
  | refl => exact ⟨0, rfl⟩
  | head hstep _ ih =>
    obtain ⟨n, hn⟩ := ih
    exact ⟨n + 1, (run_succ hstep n).trans hn⟩

theorem stepsTo_of_evt {s t : State} {w : LabelWord} {rest : List Input} {i : Instr} (h : s.sched = .evt w :: rest)
    (hd : decodeLabel w = .ok i) (he : exec i { s with sched := rest } = .next t) : StepsTo s t :=
  (step_of_evt h hd).trans he

/-! ### A chunked transfer under way

`base` is the address of the first source byte and `len` their number. -/

/-- The record of source byte `i` (R40, R181). -/
def sourceRecord (s : State) (base i : Nat) : OutRec := ⟨s.kChan.dst, 1, (s.byte (base + i)).setWidth 16⟩

/-- The source bytes and the destination byte exist, and the destination is none of the source bytes (R66). -/
structure Deliverable (s : State) (base len : Nat) : Prop where
  top : base + len ≤ 2 ^ 32
  source : ∀ i < len, mapped s.par (base + i) = true ∧ s.kChan.dst.toNat ≠ base + i
  dst : mapped s.par s.kChan.dst.toNat = true

/-- In `u` the transfer begun from `s` has delivered all of its source bytes but the bytes left, in order (R211). -/
structure Underway (s : State) (base len : Nat) (u : State) : Prop where
  inv : Inv u
  par : u.par = s.par
  dst : u.kChan.dst = s.kChan.dst
  source : ∀ i < len, u.byte (base + i) = s.byte (base + i)
  left : bytesLeft u ≤ len
  log : u.kChan.out = s.kChan.out ++ (List.range (len - bytesLeft u)).map (sourceRecord s base)
  cursor : chunkEnd u % 2 ^ 32 = (base + len) % 2 ^ 32
  reloads : continuePulses u + reloadsLeft u = continuePulses s + (ceilDiv len s.par.cap.toNat - 1)
  dones : donePulses u = donePulses s
  err : u.err = false

/-- What a chunked transfer begun from `s` ends in (R206, R211). -/
structure Completed (s : State) (base len : Nat) (u : State) : Prop where
  st : u.st = .idle
  rem : u.rem = 0#32
  done : u.done = true
  err : u.err = false
  en : u.kChan.en = false
  reloads : continuePulses u = continuePulses s + (ceilDiv len s.par.cap.toNat - 1)
  dones : donePulses u = donePulses s + 1
  log : u.kChan.out = s.kChan.out ++ (List.range len).map (sourceRecord s base)

section
variable {s u v : State} {base len : Nat}

/-- The transfer does not depend on the inputs to come. -/
theorem Underway.withSched (h : Underway s base len u) (rest : List Input) :
    Underway s base len { u with sched := rest } :=
  ⟨h.inv, h.par, h.dst, h.source, h.left, h.log, h.cursor, h.reloads, h.dones, h.err⟩

/-- An operation within the transfer carries it on, by the totals that it keeps, if it delivers nothing or the next
source byte. -/
theorem Underway.step {i : Instr} (h : Underway s base len u) (he : exec i u = .next v) (hst : u.st ≠ .idle)
    (hst' : v.st ≠ .idle) (hdst : v.kChan.dst = u.kChan.dst)
    (hsource : ∀ i < len, v.byte (base + i) = u.byte (base + i)) (hdones : donePulses v = donePulses u)
    (herr : v.err = u.err)
    (hlog : v.kChan.out = u.kChan.out ∨ v.kChan.out = u.kChan.out ++ [sourceRecord s base (len - bytesLeft u)]) :
    Underway s base len v := by
  obtain ⟨hreloads, hbytes, hcursor⟩ := exec_totalsKept h.inv he hst hst'
  obtain ⟨hpar, -⟩ := exec_sameInstance he
  have hleft := h.left
  obtain ⟨hleft', hlog'⟩ : bytesLeft v ≤ len
      ∧ v.kChan.out = s.kChan.out ++ (List.range (len - bytesLeft v)).map (sourceRecord s base) := by
    obtain e | e := hlog
    · rw [e] at hbytes
      have hsame : bytesLeft v = bytesLeft u := by omega
      exact ⟨hsame ▸ hleft, by rw [e, hsame]; exact h.log⟩
    · rw [e, List.length_append, List.length_singleton] at hbytes
      have hnext : len - bytesLeft v = len - bytesLeft u + 1 := by omega
      refine ⟨by omega, ?_⟩
      rw [e, hnext, List.range_succ, List.map_append, ← List.append_assoc, ← h.log]
      rfl
  exact ⟨exec_inv h.inv he, hpar.trans h.par, hdst.trans h.dst, fun i hi => (hsource i hi).trans (h.source i hi),
    hleft', hlog', hcursor.trans h.cursor, hreloads.trans h.reloads, hdones.trans h.dones, herr.trans h.err⟩

theorem Underway.kExists (h : Underway s base len u) : u.par.chK.toNat < u.nCh := by
  obtain ⟨hwf, -⟩ := h.inv
  exact (wellFormed_chK_cap hwf).1

/-- Under way in Active, K1 (R39). -/
theorem Underway.active (h : Underway s base len u) (hst : u.st = .active) : ActiveInv u := by
  obtain ⟨-, -, ⟨hactive, -⟩, -⟩ := h.inv
  exact hactive hst

/-- The cursor stands at the next source byte (R205: the chunks tile the buffer). -/
theorem Underway.cur (h : Underway s base len u) (htop : base + len ≤ 2 ^ 32) (hleft : 1 ≤ bytesLeft u) :
    u.kChan.cur.toNat = base + (len - bytesLeft u) := by
  have hcursor := h.cursor
  have hle := h.left
  have hlt := u.kChan.cur.isLt
  rw [chunkEnd] at hcursor
  omega

/-! ### The steps of a chunk -/

/-- CH_K after a request served on it (R181). -/
theorem kChan_serve (hk : u.par.chK.toNat < u.nCh) :
    (serve u u.par.chK).kChan = advance u.kChan (movedRecord u u.par.chK) := by
  rw [State.kChan, (sameInstance_serve u u.par.chK).1]
  exact serve_chan_self hk

/-- With a byte left in the chunk, the cursor is at a source byte and the move of it is enabled (R180). -/
theorem Underway.moveEnabled (h : Underway s base len u) (hd : Deliverable s base len) (hst : u.st = .active)
    (hleft : 1 ≤ bytesLeft u) : moveEnabled u.par u.kChan = true := by
  obtain ⟨-, hcfg, -⟩ := h.active hst
  obtain ⟨hsize, -⟩ := cfgChunkable_spec hcfg
  have hle := h.left
  obtain ⟨hmapped, -⟩ := hd.source (len - bytesLeft u) (by omega)
  rw [moveEnabled_iff, hsize, h.par, h.dst, h.cur hd.top hleft]
  refine ⟨fun j hj => ?_, fun j hj => ?_⟩ <;> obtain rfl : j = 0 := by omega
  · exact hmapped
  · exact hd.dst

/-- The record of the byte moved is that of the next source byte (R40, R181). -/
theorem Underway.movedRecord_eq (h : Underway s base len u) (hd : Deliverable s base len) (hst : u.st = .active)
    (hleft : 1 ≤ bytesLeft u) : movedRecord u u.par.chK = sourceRecord s base (len - bytesLeft u) := by
  obtain ⟨-, hcfg, -⟩ := h.active hst
  obtain ⟨hsize, -⟩ := cfgChunkable_spec hcfg
  have hle := h.left
  calc movedRecord u u.par.chK
      = ⟨u.kChan.dst, elemSize u.kChan.cfg, memRead u u.kChan.cur.toNat (elemSize u.kChan.cfg)⟩ := rfl
    _ = ⟨s.kChan.dst, 1, (u.byte (base + (len - bytesLeft u))).setWidth 16⟩ := by
        rw [hsize, h.dst, memRead_one, h.cur hd.top hleft]
    _ = sourceRecord s base (len - bytesLeft u) := by rw [h.source _ (by omega), sourceRecord]

/-- The byte moved leaves the source bytes alone. -/
theorem Underway.serve_source (h : Underway s base len u) (hd : Deliverable s base len) (hst : u.st = .active)
    (hleft : 1 ≤ bytesLeft u) {i : Nat} (hi : i < len) :
    (serve u u.par.chK).byte (base + i) = u.byte (base + i) := by
  obtain ⟨-, hcfg, -⟩ := h.active hst
  obtain ⟨hsize, -⟩ := cfgChunkable_spec hcfg
  obtain ⟨-, -, -, -, hwf⟩ := h.inv
  obtain ⟨-, hapart⟩ := hd.source i hi
  have houtside : base + i < u.kChan.dst.toNat ∨ u.kChan.dst.toNat + elemSize u.kChan.cfg ≤ base + i := by
    rw [hsize, h.dst]
    omega
  exact serve_byte_outside hwf (h.moveEnabled hd hst hleft) houtside

/-- A request with the chunk's count above 0 delivers the next source byte (R181, R203). -/
theorem Underway.exec_req (h : Underway s base len u) (hd : Deliverable s base len) (hst : u.st = .active)
    (hne : u.kChan.cnt ≠ 0#16) :
    ∃ v, exec (.req s.par.chK) u = .next v ∧ Underway s base len v ∧ v.fsm = u.fsm
      ∧ v.kChan.cnt.toNat + 1 = u.kChan.cnt.toNat ∧ v.sched = u.sched := by
  obtain ⟨hen, hcfg, -⟩ := h.active hst
  have hpos := toNat_pos_of_ne_zero hne
  have hleft : 1 ≤ bytesLeft u := by rw [bytesLeft_of_active hst]; omega
  have hexec := exec_req_of_serves (ch := u.par.chK)
    (serves_iff.mpr ⟨h.kExists, running_iff.mpr ⟨hen, hne⟩, h.moveEnabled hd hst hleft⟩)
  have hchan := kChan_serve h.kExists
  obtain ⟨hcnt, -, hout⟩ := advance_chunkable (movedRecord u u.par.chK) hcfg hne
  obtain ⟨-, -, -, hdst, -⟩ := advance_keepsDescriptor u.kChan (movedRecord u u.par.chK)
  obtain ⟨-, -, ⟨hst', -, -, -, herr⟩, hpulses, -, ⟨-, -, hsched, -⟩, -⟩ := reqFrame_serve h.kExists
  have hbusy : u.st ≠ .idle := by rw [hst]; nofun
  refine ⟨_, h.par ▸ hexec, ?_, serve_fsm .., by rw [hchan]; exact hcnt, hsched⟩
  refine h.step hexec hbusy (by rwa [hst']) (by rw [hchan]; exact hdst) (fun _ => h.serve_source hd hst hleft)
    (by rw [donePulses, donePulses, hpulses]) herr (.inr ?_)
  rw [hchan, hout, h.movedRecord_eq hd hst hleft]

/-- As many requests as the count leave the chunk moved (R203). -/
theorem Underway.requests (hd : Deliverable s base len) {n : Nat} {rest : List Input} (h : Underway s base len u)
    (hst : u.st = .active) (hcnt : u.kChan.cnt.toNat = n) (hsched : u.sched = reqInputs s.par.chK n ++ rest) :
    ∃ v, Reaches u v ∧ Underway s base len v ∧ v.fsm = u.fsm ∧ v.kChan.cnt = 0#16 ∧ v.sched = rest := by
  induction n generalizing u with
  | zero => exact ⟨u, .refl, h, rfl, BitVec.eq_of_toNat_eq hcnt, hsched⟩
  | succ n ih =>
    have hne : u.kChan.cnt ≠ 0#16 := by bv_omega
    obtain ⟨v, hexec, hv, hfsm, hfall, hsched'⟩ :=
      (h.withSched (reqInputs s.par.chK n ++ rest)).exec_req hd hst hne
    have hstep : StepsTo u v := stepsTo_of_evt hsched (decode_encode (.req s.par.chK)) hexec
    have hst' : v.st = .active := (congrArg FsmRegs.st hfsm).trans hst
    have hcnt' : v.kChan.cnt.toNat + 1 = n + 1 := hfall.trans hcnt
    obtain ⟨w, hreach, hw, hfsm', hzero, hrest⟩ := ih hv hst' (by omega) hsched'
    exact ⟨w, .head hstep hreach, hw, hfsm'.trans hfsm, hzero, hrest⟩

/-- SERVICE after a moved chunk: Done with nothing left, else ReloadNext (R204). -/
theorem Underway.exec_service (h : Underway s base len u) (hst : u.st = .active) (hcnt : u.kChan.cnt = 0#16) :
    ∃ v, exec .service u = .next v ∧ Underway s base len v ∧ v.rem.toNat = u.rem.toNat - u.chunk.toNat
      ∧ (u.chunk.toNat < u.rem.toNat → v.st = .reloadNext) ∧ (u.chunk.toNat = u.rem.toNat → v.st = .done)
      ∧ v.sched = u.sched := by
  obtain ⟨-, -, -, -, -, hle, -, -, htcf, -⟩ := h.active hst
  obtain ⟨v, hexec, hchan, hrem, hmore, hlast, -, -, herr, -, -, hpulses, -, hmem, -, -, hsched, -⟩ :=
    serviceTakesTheCompletion.2 u h.kExists hst (htcf.mpr hcnt) hle
  have hbusy : v.st ≠ .idle := by
    obtain hlt | heq := Nat.lt_or_eq_of_le hle
    · rw [hmore hlt]; nofun
    · rw [hlast heq]; nofun
  refine ⟨v, hexec, ?_, hrem, hmore, hlast, hsched⟩
  exact h.step hexec (by rw [hst]; nofun) hbusy (by rw [hchan]) (fun _ _ => hmem _)
    (by rw [donePulses, donePulses, hpulses]) herr (.inl (by rw [hchan]))

/-- RELOAD puts a fresh chunk of what is left in flight (R205). -/
theorem Underway.exec_reload (h : Underway s base len u) (hst : u.st = .reloadNext) :
    ∃ v, exec .reload u = .next v ∧ Underway s base len v ∧ v.st = .active ∧ v.rem = u.rem
      ∧ v.kChan.cnt = v.chunk ∧ v.sched = u.sched := by
  obtain ⟨v, n, hexec, -, hchan, hchunk, hst', hpulses, hrem, -, herr, -, -, -, hmem, -, -, hsched, -⟩ :=
    reloadWritesTheLengthRegister.2 u h.kExists hst
  refine ⟨v, hexec, ?_, hst', hrem, by rw [hchan, hchunk], hsched⟩
  exact h.step hexec (by rw [hst]; nofun) (by rw [hst']; nofun) (by rw [hchan]) (fun _ _ => hmem _)
    (by simp [donePulses, hpulses]) herr (.inl (by rw [hchan]))

/-- FINISH completes the transfer: in Done no byte and no reload is left (R206). -/
theorem Underway.exec_finish (h : Underway s base len u) (hst : u.st = .done) :
    ∃ v, exec .finish u = .next v ∧ Completed s base len v ∧ v.sched = u.sched := by
  obtain ⟨-, -, ⟨-, -, hdone⟩, -⟩ := h.inv
  obtain ⟨-, -, -, hzero, -⟩ := hdone hst
  obtain ⟨v, hexec, hchan, -, hdone', -, hst', hpulses, hrem, herr, -, -, -, -, -, -, hsched, -⟩ :=
    finishSignalsCompletion.2 u h.kExists hst
  have hlog := h.log
  have hreloads := h.reloads
  rw [bytesLeft_of_done hst, Nat.sub_zero] at hlog
  rw [reloadsLeft_of_done hst, Nat.add_zero] at hreloads
  refine ⟨v, hexec, ⟨hst', hrem.trans hzero, hdone', herr.trans h.err, by rw [hchan], ?_, ?_, ?_⟩, hsched⟩
  · rw [← hreloads]
    simp [continuePulses, hpulses]
  · rw [← h.dones]
    simp [donePulses, hpulses]
  · rw [hchan]
    exact hlog

/-! ### The whole run -/

/-- A fresh chunk of the transfer: the requests for it and SERVICE. -/
theorem Underway.chunk (hd : Deliverable s base len) {n : Nat} {rest : List Input} (h : Underway s base len u)
    (hst : u.st = .active) (hfresh : u.kChan.cnt = u.chunk) (hn : u.chunk.toNat = n)
    (hsched : u.sched = reqInputs s.par.chK n ++ .evt 0x9000#16 :: rest) :
    ∃ v, Reaches u v ∧ Underway s base len v ∧ v.rem.toNat = u.rem.toNat - n
      ∧ (n < u.rem.toNat → v.st = .reloadNext) ∧ (n = u.rem.toNat → v.st = .done) ∧ v.sched = rest := by
  obtain ⟨w, hreach, hw, hfsm, hcnt, hsched'⟩ := h.requests hd hst (hfresh ▸ hn) hsched
  obtain ⟨hst', hrem, hchunk, -⟩ := FsmRegs.mk.inj hfsm
  obtain ⟨v, hexec, hv, hrem', hmore, hlast, hrest⟩ := (hw.withSched rest).exec_service (hst'.trans hst) hcnt
  have hstep : StepsTo w v := stepsTo_of_evt hsched' rfl hexec
  simp only [hrem, hchunk, hn] at hrem' hmore hlast
  exact ⟨v, hreach.tail hstep, hv, hrem', hmore, hlast, hrest⟩

theorem chunkInputs_last {k : ChIx} {cap fuel left : Nat} (h : left ≤ cap) (rest : List Input) :
    chunkInputs k cap (fuel + 1) left ++ rest = reqInputs k left ++ .evt 0x9000#16 :: .evt 0x9200#16 :: rest := by
  simp [chunkInputs, h]

theorem chunkInputs_more {k : ChIx} {cap fuel left : Nat} (h : cap < left) (rest : List Input) :
    chunkInputs k cap (fuel + 1) left ++ rest =
      reqInputs k cap ++ .evt 0x9000#16 :: .evt 0x9100#16 :: (chunkInputs k cap fuel (left - cap) ++ rest) := by
  simp [chunkInputs, Nat.not_le.mpr h]

/-- With a fresh chunk in flight the rest of the schedule completes the transfer. By induction on the chunks to come. -/
theorem Underway.chunks (hd : Deliverable s base len) {rest : List Input} {fuel left : Nat}
    (h : Underway s base len u) (hst : u.st = .active) (hfresh : u.kChan.cnt = u.chunk) (hrem : u.rem.toNat = left)
    (hfuel : left ≤ fuel) (hsched : u.sched = chunkInputs s.par.chK s.par.cap.toNat fuel left ++ rest) :
    ∃ v, Reaches u v ∧ Completed s base len v ∧ v.sched = rest := by
  induction fuel generalizing u left with
  | zero =>
    obtain ⟨-, -, -, hlow, -, hle, -⟩ := h.active hst
    omega
  | succ fuel ih =>
    obtain ⟨-, -, -, hlow, -, -, hmin, -⟩ := h.active hst
    have hchunk : u.chunk.toNat = min left s.par.cap.toNat := by
      rw [hmin, chunkLength_toNat, hrem, h.par]
    by_cases hlast : left ≤ s.par.cap.toNat
    · rw [chunkInputs_last hlast] at hsched
      obtain ⟨v, hreach, hv, -, -, hdone, hsched'⟩ := h.chunk hd hst hfresh (by omega) hsched
      obtain ⟨w, hexec, hw, hrest⟩ := (hv.withSched rest).exec_finish (hdone hrem.symm)
      exact ⟨w, hreach.tail (stepsTo_of_evt hsched' rfl hexec), hw, hrest⟩
    · rw [chunkInputs_more (Nat.not_le.mp hlast)] at hsched
      obtain ⟨v, hreach, hv, hrem', hmore, -, hsched'⟩ := h.chunk hd hst hfresh (by omega) hsched
      have hnext := hv.withSched (chunkInputs s.par.chK s.par.cap.toNat fuel (left - s.par.cap.toNat) ++ rest)
      obtain ⟨w, hexec, hw, hst', hkeep, hfresh', hsched''⟩ := hnext.exec_reload (hmore (by omega))
      have hleft : w.rem.toNat = left - s.par.cap.toNat := by rw [hkeep, ← hrem]; exact hrem'
      obtain ⟨x, hreach', hx, hrest⟩ := ih hw hst' hfresh' hleft (by omega) hsched''
      exact ⟨x, (hreach.tail (stepsTo_of_evt hsched' rfl hexec)).trans hreach', hx, hrest⟩

end

/-- Settles O48: the accepted CKSTART leaves the transfer under way with nothing delivered, and `Underway.chunks` runs
it to its end. -/
theorem completeChunkedRun : Obligations.CompleteChunkedRun := by
  intro s len off rest hinv hidle hen hav hwidth hcirc htcf hlen htop hsource hdst hsched
  obtain ⟨hwf, hchans, -⟩ := id hinv
  obtain ⟨hk, -⟩ := wellFormed_chK_cap hwf
  obtain ⟨hcv, -⟩ := channelInv_chan hchans s.par.chK
  obtain ⟨t, n, cur, hexec, -, hn, hcur, hchan, hst, hrem, hchunk, -, herr, -, hpulses, -, hmem, hpar, -, hkeep, -⟩ :=
    ckstartBeginsATransfer s len off hk hidle hen (hcv hav) hav hwidth hcirc htcf hlen htop
  have hleft : bytesLeft t = len.toNat := by
    rw [bytesLeft_of_active hst, hchan, hrem, hchunk]
    simp only
    omega
  have hstart : Underway s (s.kChan.src.toNat + off.toNat) len.toNat t := by
    refine ⟨exec_inv hinv hexec, hpar, by rw [hchan], fun _ _ => hmem _, hleft.le, ?_, ?_, ?_, ?_, herr⟩
    · rw [hleft, Nat.sub_self, hchan]
      exact (List.append_nil _).symm
    · rw [chunkEnd, hleft, hchan, hcur]
    · rw [reloadsLeft_of_active hst, hrem, hpar, continuePulses, hpulses, continuePulses]
    · rw [donePulses, hpulses, donePulses]
  obtain ⟨u, hreach, hu, hrest⟩ := hstart.chunks ⟨htop, hsource, hdst⟩ hst (by rw [hchan, hchunk])
    (by rw [hrem]) le_rfl (hkeep.trans hsched)
  obtain ⟨m, hrun⟩ := run_of_reaches hreach
  exact ⟨t, m, u, hexec, hrun, hu.st, hu.rem, hu.done, hu.err, hu.en, hrest, hu.reloads, hu.dones, hu.log⟩

end Sys2Proof.Machine

/-! The family of spec/70_reset_and_hazards.md: what RST leaves (O2), and the steps that are not there (O46). -/

namespace Sys2Proof.Machine

/-! ### What RST leaves -/

theorem exec_rst (s : State) : exec .rst s = .next s.afterRst := rfl

/-- The specified registers of a channel at their values of R45. -/
abbrev ChannelReset (c : Channel) : Prop :=
  c.en = false ∧ c.tcf = false ∧ c.cv = false ∧ c.av = false ∧ c.cnt = 0#16 ∧ c.out = []

/-- Every channel after RST is drawn by `channelAfterRst`, whose free values are all outside R45's table. -/
theorem channelReset_of_mem_afterRst {s : State} {c : Channel} (h : c ∈ s.afterRst.chans) : ChannelReset c := by
  obtain ⟨n, -, rfl⟩ := List.mem_mapIdx.mp h
  exact ⟨rfl, rfl, rfl, rfl, rfl, rfl⟩

/-- After RST no completion line is high, on channels that exist (R45) or not. -/
theorem irqTc_afterRst (s : State) (ch : ChIx) : irqTc s.afterRst ch = false := by
  by_cases hch : ch.toNat < s.afterRst.nCh
  · obtain ⟨-, htcf, -⟩ := channelReset_of_mem_afterRst (State.chan_mem hch)
    exact htcf
  · rw [irqTc, State.chan, List.getD_eq_default _ _ (Nat.le_of_not_lt hch)]
    rfl

theorem blockReset_afterRst (s : State) : BlockReset s.afterRst :=
  ⟨fun _ => channelReset_of_mem_afterRst, rfl, rfl, rfl, rfl, rfl, rfl, rfl, irqTc_afterRst s, rfl⟩

/-- Settles O2: `State.afterRst` is as R45 gives it, and RST writes neither memory, the instance, the schedule nor
`hostData`. -/
theorem rstPutsTheBlockIntoReset : Obligations.RstPutsTheBlockIntoReset := by
  intro s
  obtain ⟨hpar, hnCh⟩ := exec_sameInstance (exec_rst s)
  exact ⟨s.afterRst, exec_rst s, blockReset_afterRst s, rfl, fun _ => rfl, hnCh, hpar, rfl, rfl⟩

/-! ### The steps that are not there -/

theorem serviceEnabled_eq_false_iff {s : State} : serviceEnabled s = false ↔ s.st ≠ .active ∨ s.kChan.tcf = false := by
  simp only [serviceEnabled, Bool.and_eq_false_iff, beq_eq_false_iff_ne]

theorem exec_service_of_not_enabled {s : State} (h : serviceEnabled s = false) :
    exec .service s = .refused (.stepNotEnabled 0x9000#16) := if_neg (Bool.eq_false_iff.mp h)

theorem exec_reload_of_not_enabled {s : State} (h : s.st ≠ .reloadNext) :
    exec .reload s = .refused (.stepNotEnabled 0x9100#16) := if_neg h

theorem exec_finish_of_not_enabled {s : State} (h : s.st ≠ .done) :
    exec .finish s = .refused (.stepNotEnabled 0x9200#16) := if_neg h

theorem exec_req_of_no_channel {s : State} {ch : ChIx} (h : ¬ ch.toNat < s.nCh) :
    exec (.req ch) s = .refused (.noSuchWire ch) := if_neg h

/-- Settles O46: each label, outside its step's guard, is refused. -/
theorem fsmStepsNotEnabledAreRefused : Obligations.FsmStepsNotEnabledAreRefused := fun _ =>
  ⟨fun hoff => exec_service_of_not_enabled (serviceEnabled_eq_false_iff.mpr hoff), exec_reload_of_not_enabled,
    exec_finish_of_not_enabled, fun _ => exec_req_of_no_channel⟩

end Sys2Proof.Machine
